-- ==== Sys2Proof/Word.lean ====
section
/-! DEFINITION. The element types of the engine: a byte, a trit, and a space of cells. -/

namespace Sys2Proof

/-- A byte: an 8-bit unsigned value (10_state R23). -/
abbrev Byte := BitVec 8

/-- A trit: a value in {0, 1, 2}, a type with exactly three values (10_state R22). Its storage bits are not
observable and are not modelled (92 D34). -/
abbrev Trit := Fin 3

/-- The cells of one caller-owned space (10_state R24, R25): the written cells, each an address and a value, addresses
strictly rising. An address that is not listed is an unwritten cell: it has no value. -/
abbrev Space (α : Type) := List (Nat × α)

/-- The names of the two spaces (10_state R24). -/
inductive SpaceName where
  | T
  | B
  deriving DecidableEq, Repr

/-- One chunk seen by an encoder: `x i` is `trit_i` (40_contract R53). Only `x 0 .. x (N-1)` are read. -/
abbrev Chunk := Nat → Trit

end Sys2Proof
end

