-- ==== Sys2Proof/Config.lean ====
section
/-! DEFINITION. What an implementation fixes (the parameters of 00_scope R9) and the free values. -/

namespace Sys2Proof

/-- The parameters of the model (00_scope R9, 92 "Parameters the model takes as arguments"). The spec fixes none of
them, so they stand beside the state as data that no step changes, and a statement about every state is a statement about
every parameter value. DESIGN CHOICE (log entry 1): safe. -/
structure Config where
  /-- `ADDR_W`: the width in bits of every operand word, at least 2 (R9, D3). -/
  addrW : Nat
  /-- `T_SIZE`: the number of cells of T (R9, D2). -/
  tSize : Nat
  /-- `B_SIZE`: the number of cells of B (R9, D2). -/
  bSize : Nat
  /-- `VALIDATE_ALL_SOURCE`: decode validates every source byte, not only those it consumes (R9, D9; log entry 14). -/
  validateAllSource : Bool
  /-- `DPT_TABLE`: the DPT byte of the chunk of base-3 value `v` at index `v` (00_scope R10, 44_dpt R111; log entry 9). -/
  dptTable : List Byte
  deriving DecidableEq, Repr

/-- The free draw of a clobbered trit cell (00_scope R12 `Clobber`, 40_contract R61): `none` keeps the cell's state, `some v`
gives it the value `v`. It has no body: a claim is true whatever it is. The argument is the number of the draw, which is
never used twice in a run. DESIGN CHOICE (log entry 4). -/
opaque Config.clobberedTrit : Nat → Option Trit

/-- The free draw of a clobbered byte cell, as `Config.clobberedTrit`. DESIGN CHOICE (log entry 4). -/
opaque Config.clobberedByte : Nat → Option Byte

/-- The free STATUS of a command that read an unwritten cell, whose response is undefined (60_exceptions R121): one of the three
codes that exist, since STATUS 3 is never returned (10_state R28). DEDUCED (log entry 2). -/
opaque Config.freeStatus : Nat → Fin 3

/-- The free COUNT of a command that read an unwritten cell (60_exceptions R121), before it is cut to COUNT_W bits.
DEDUCED (log entry 2). -/
opaque Config.freeCount : Nat → Nat

end Sys2Proof
end

