-- ==== Sys2Proof/Machine/Trits.lean ====
section
/-! DEFINITION. Base-3 values of chunks, and their digits (41_base3 R69, R72; 44_dpt R98). -/

namespace Sys2Proof.Machine

/-- The trit of a number that is 0, 1 or 2. Every use has such a number (40_contract R67). -/
def tritOf (n : Nat) : Trit := Fin.ofNat 3 n

/-- `Val3(x) = x0 + 3*x1 + 9*x2 + 27*x3 + 81*x4` (41_base3 R69). -/
def val3 (x : Chunk) : Nat :=
  (x 0).val + 3 * (x 1).val + 9 * (x 2).val + 27 * (x 3).val + 81 * (x 4).val

/-- `n` base-3 digits of `v`, least significant first: repeatedly `v mod 3`, then `v div 3` (41_base3 R72). -/
def digits3 : Nat → Nat → List Trit
  | 0, _ => []
  | n + 1, v => tritOf (v % 3) :: digits3 n (v / 3)

/-- The chunk of base-3 value `v`: trit `i` is `(v div 3^i) mod 3` (95_test_vectors L2.3). -/
def chunkOfVal (v : Nat) : Chunk := fun i => tritOf (v / 3 ^ i % 3)

end Sys2Proof.Machine
end

