-- ==== Sys2Proof/Machine/DptTable.lean ====
section
/-! DEFINITION. The DPT layout as data: the default instance of DPT_TABLE (44_dpt R99 to R107), the properties every instance must
have (R111), and the parameter constraints of 00_scope R9. -/

namespace Sys2Proof.Machine

/-- The joint value of the first pair, `a = x0 + 3*x1` (44_dpt R94). -/
def pairA (x : Chunk) : Nat := (x 0).val + 3 * (x 1).val

/-- The joint value of the second pair, `b = x2 + 3*x3` (44_dpt R94). -/
def pairB (x : Chunk) : Nat := (x 2).val + 3 * (x 3).val

/-- `EncodeChunk_DPT` of the default instance: small/small, small/large, large/small, large/large in this order
(44_dpt R99, R101, R102, R103, R107). -/
def dptDefaultByte (x : Chunk) : Byte :=
  let a := pairA x
  let b := pairB x
  let x4 := (x 4).val
  if a ≤ 7 ∧ b ≤ 7 then
    BitVec.ofNat 8 (a ||| ((x4 &&& 1) <<< 3) ||| (b <<< 4) ||| ((x4 >>> 1) <<< 7))
  else if a ≤ 7 ∧ b = 8 then BitVec.ofNat 8 (0x88 ||| (x4 <<< 4) ||| a)
  else if a = 8 ∧ b ≤ 7 then BitVec.ofNat 8 (0xC8 ||| (x4 <<< 4) ||| b)
  else BitVec.ofNat 8 (0xF8 ||| x4)

/-- The default instance of `DPT_TABLE`: the bytes of the 243 chunks in ascending order of their base-3 value
(44_dpt R106, R107; log entry 9). -/
def dptDefaultTable : List Byte := (List.range 243).map fun v => dptDefaultByte (chunkOfVal v)

/-- The small/small chunks: both pair values at most 7 (44_dpt R95, R96). -/
abbrev SmallPairs (x : Chunk) : Prop := pairA x ≤ 7 ∧ pairB x ≤ 7

/-- The byte a `DPT_TABLE` gives the chunk of base-3 value `v`. -/
def tableByte (table : List Byte) (v : Nat) : Byte := table.getD v 0

/-- The properties every `DPT_TABLE` instance must have (44_dpt R111). Its fourth, that validity is membership in the image and
decoding is the inverse there, is how the codec `dpt` reads the table. -/
structure DptTableOk (table : List Byte) : Prop where
  /-- One byte per chunk. -/
  total : table.length = 243
  /-- R111.1: the map is injective. -/
  injective : table.Nodup
  /-- R111.2: in a small/small byte, bits [2:0] are `a` and bits [6:4] are `b`. -/
  smallFields : ∀ v < 243, SmallPairs (chunkOfVal v) →
    (tableByte table v).toNat % 8 = pairA (chunkOfVal v) ∧
    (tableByte table v).toNat / 16 % 8 = pairB (chunkOfVal v)
  /-- R111.3: bits 3 and 7 alone decide whether a byte is small/small. -/
  indicators : ∀ v < 243, ∀ w < 243, SmallPairs (chunkOfVal v) → ¬ SmallPairs (chunkOfVal w) →
    ¬ ((tableByte table v).getLsbD 3 = (tableByte table w).getLsbD 3 ∧
       (tableByte table v).getLsbD 7 = (tableByte table w).getLsbD 7)

/-- The constraints on the parameters (00_scope R9, R10, 44_dpt R111). -/
structure ConfigOk (c : Config) : Prop where
  addrW : 2 ≤ c.addrW
  tSizePos : 1 ≤ c.tSize
  tSizeMax : c.tSize ≤ 2 ^ c.addrW
  bSizePos : 1 ≤ c.bSize
  bSizeMax : c.bSize ≤ 2 ^ c.addrW
  dptTable : DptTableOk c.dptTable

/-- The example and default parameter values (00_scope R9, 95_test_vectors "Configuration used throughout").
DESIGN CHOICE for the sizes and the width (log entry 1). -/
def exampleConfig : Config where
  addrW := 16
  tSize := 256
  bSize := 256
  validateAllSource := true
  dptTable := dptDefaultTable

end Sys2Proof.Machine
end

