-- ==== Sys2Proof/Machine/State.lean ====
section
/-! DEFINITION. The state of the machine (10_state R29, 70_reset_and_hazards R133), the reasons a step can stop, and the state
after power-on. -/

namespace Sys2Proof.Machine

/-- STATUS of a response (10_state R28). The code 3 is reserved and never returned, so it has no constructor. -/
inductive Status where
  | ok
  | fail
  | illegal
  deriving DecidableEq, Repr

/-- The response of a command (10_state R28). COUNT is the natural number it denotes, below `2^COUNT_W`. -/
structure Response where
  status : Status
  count : Nat
  deriving DecidableEq, Repr

/-- Why a command ended with FAIL (60_exceptions R119). A label inside the model: the host cannot observe it. -/
inductive FailCause where
  | capacity
  | invalidCodepoint
  | invalidTrit
  deriving DecidableEq, Repr

/-- Why a command ended with ILLEGAL (60_exceptions R120). A label inside the model. -/
inductive IllegalCause where
  | opcode
  | bounds
  deriving DecidableEq, Repr

/-- The cause of an outcome other than OK. -/
inductive Cause where
  | fail (c : FailCause)
  | illegal (c : IllegalCause)
  deriving DecidableEq, Repr

/-- What one command leaves in the record of a run: its response, which the host sees, and the cause label, which it does
not see (60_exceptions R118, R119). -/
structure Completion where
  response : Response
  cause : Option Cause
  deriving DecidableEq, Repr

/-- The model fault of 60_exceptions R121, with what its mark records: the index of the command, and the space and address of the
unwritten cell. It is a mark in the state and no stop (log entry 2). -/
inductive ModelFault where
  | uninitRead (space : SpaceName) (cidx addr : Nat)
  deriving DecidableEq, Repr

/-- The state of the machine: the spec's own state (10_state R29), the parameters (00_scope R9) and the model's own record and
draw counter. The engine itself has no register, flag, mode or hidden state (R17 to R20). -/
structure State where
  /-- The parameters (00_scope R9). No step changes them. Model's own field, log entry 1. -/
  cfg : Config
  /-- The trit space T (10_state R24, R25). -/
  T : Space Trit
  /-- The byte space B (10_state R24, R25). -/
  B : Space Byte
  /-- The command stream P, as packed descriptors (10_state R21, 30_encoding R44; log entries 7 and 8). -/
  stream : List Nat
  /-- The host-side index of the next command (10_state R21). -/
  cidx : Nat
  /-- The model fault mark (60_exceptions R121). -/
  faultMark : Option ModelFault
  /-- The responses returned since the launch, oldest first (70_reset_and_hazards R136). No command reads it: the last response is
  not state of the engine (10_state R29). Model's own field, log entries 5 and 6. -/
  trace : List Completion
  /-- How many free values have been drawn (20_memory R36). Model's own field, log entries 4 and 16. -/
  draws : Nat
  deriving DecidableEq, Repr

/-- Why the machine stops with a fault. -/
inductive Fault where
  /-- Raised by the host's own access to a cell outside its space (`hostReadT`, `hostWriteT`, `hostReadB`, `hostWriteB`), never by a
  command: T has cells 0 .. T_SIZE-1 only, and B likewise (20_memory R37). Safe: the access has no meaning in the spec. -/
  | noSuchCell (space : SpaceName) (addr : Nat)
  deriving DecidableEq, Repr

/-- Why a step has no meaning. -/
inductive Refusal where
  /-- Raised by an arm of `exec` whose command has no meaning yet (none is left). Safe: nothing is claimed of it. -/
  | notModelled (mnemonic : String)
  /-- Raised by `step` when no command is left: the run ended at `cidx = len(P)` (10_state R21). Safe: the engine does nothing until
  the host presents a command. -/
  | endOfStream
  /-- Raised by `step` when the next entry of the stream has more bits than a descriptor (30_encoding R44): the command port cannot
  carry it. Safe (log entry 8). -/
  | notADescriptor
  deriving DecidableEq, Repr

/-- The machine after power-on (10_state R29, 70_reset_and_hazards R133): every cell unwritten, `cidx` 0, no fault mark, no stream
launched, the example parameters (log entries 1, 5, 7, 16). -/
def State.reset : State where
  cfg := exampleConfig
  T := []
  B := []
  stream := []
  cidx := 0
  faultMark := none
  trace := []
  draws := 0

end Sys2Proof.Machine
end

