-- ==== Sys2Proof/Machine/Flags.lean ====
section
/-! DEFINITION. The engine has no flags and no condition codes (10_state R19): no command writes one and none reads one. What it has
is the STATUS and COUNT of a response, whose codes and width stand here (10_state R28), and the numbers of the
failure causes (60_exceptions R119). -/

namespace Sys2Proof.Machine

/-- The 2-bit code of STATUS: 0 OK, 1 FAIL, 2 ILLEGAL (10_state R28). -/
def Status.code : Status → BitVec 2
  | .ok => 0
  | .fail => 1
  | .illegal => 2

/-- The status of one of the three codes that are returned (10_state R28). -/
def statusOfCode (c : Fin 3) : Status :=
  match c.val with
  | 0 => .ok
  | 1 => .fail
  | _ => .illegal

/-- The number of a failure cause, a label inside the model (60_exceptions R119). -/
def FailCause.number : FailCause → Nat
  | .capacity => 1
  | .invalidCodepoint => 2
  | .invalidTrit => 3

/-- The width of COUNT, `ADDR_W + 3` (00_scope R9, 10_state R28). -/
def countW (c : Config) : Nat := c.addrW + 3

end Sys2Proof.Machine
end

