-- ==== Sys2Proof/Machine/Memory.lean ====
section
/-! DEFINITION. The cells of a space: reading, writing, regions, clobbering, and the canonical form (00_scope R12,
10_state R25, 20_memory R30). -/

namespace Sys2Proof.Machine

variable {α : Type}

/-- `S[a]`: the value of a cell, or `none` for an unwritten cell (00_scope R12, 10_state R25). -/
def cellRead : Space α → Nat → Option α
  | [], _ => none
  | (k, v) :: m, a => if a = k then some v else cellRead m a

/-- `S[a] <- v` (00_scope R12). The cells stay sorted by address. -/
def cellWrite : Space α → Nat → α → Space α
  | [], a, v => [(a, v)]
  | (k, w) :: m, a, v =>
    if a < k then (a, v) :: (k, w) :: m
    else if a = k then (a, v) :: m
    else (k, w) :: cellWrite m a v

/-- `MemRead(S, a, n)`: the values of `n` cells from `a` up, or the lowest address of an unwritten cell among them
(00_scope R12, 60_exceptions R121). That the lowest address is the recorded one is DEDUCED (log entry 3). -/
def regionRead (m : Space α) (a : Nat) : Nat → Except Nat (List α)
  | 0 => .ok []
  | n + 1 =>
    match cellRead m a with
    | none => .error a
    | some v =>
      match regionRead m (a + 1) n with
      | .error b => .error b
      | .ok vs => .ok (v :: vs)

/-- `MemWrite(S, a, n, L)` with `n = len(L)` (00_scope R12). -/
def regionWrite (m : Space α) (a : Nat) : List α → Space α
  | [] => m
  | v :: vs => regionWrite (cellWrite m a v) (a + 1) vs

/-- One draw of `Clobber`: the cell keeps its state or takes the drawn value (40_contract R61). -/
def cellClobber (m : Space α) (a : Nat) : Option α → Space α
  | none => m
  | some v => cellWrite m a v

/-- `Clobber(S, a, n)`: cell `a + i` takes draw number `k + i` (00_scope R12, 40_contract R61). -/
def regionClobber (draw : Nat → Option α) (m : Space α) (a k : Nat) : Nat → Space α
  | 0 => m
  | n + 1 => regionClobber draw (cellClobber m a (draw k)) (a + 1) (k + 1) n

/-- The canonical form of a space: addresses strictly rising. An unwritten cell has no value, so no entry can repeat what an
unlisted address reads as (10_state R25). -/
abbrev Memory.wf (m : Space α) : Prop := m.Pairwise fun p q => p.1 < q.1

/-- Every written cell is a cell of the space (20_memory R37). -/
abbrev Memory.inside (size : Nat) (m : Space α) : Prop := ∀ p ∈ m, p.1 < size

end Sys2Proof.Machine
end

