-- ==== Sys2Proof/Machine/Operands.lean ====
section
/-! DEFINITION. The operand forms: the region bounds checks (30_encoding R48), the sizes counted from an operand (40_contract R57,
R60) and the chunks of a trit sequence (40_contract R53, R54). -/

namespace Sys2Proof.Machine

/-- `ceil(a / n)` for `n > 0` (00_scope R11). -/
def ceilDiv (a n : Nat) : Nat := (a + n - 1) / n

/-- The bounds check of ENC.c: `A2 + A3 <= T_SIZE` and `A0 + A1 <= B_SIZE`, with exact sums (30_encoding R48). -/
def encInBounds (c : Config) (d cap src n : Nat) : Bool :=
  decide (src + n ≤ c.tSize) && decide (d + cap ≤ c.bSize)

/-- The bounds check of DEC.c: `A0 + A1 <= T_SIZE` and `A2 + A3 <= B_SIZE`, with exact sums (30_encoding R48). -/
def decInBounds (c : Config) (d k src m : Nat) : Bool :=
  decide (d + k ≤ c.tSize) && decide (src + m ≤ c.bSize)

/-- The bounds check of TRITNEW: `A0 < T_SIZE` (30_encoding R48). -/
def tritnewInBounds (c : Config) (d : Nat) : Bool := decide (d < c.tSize)

/-- How many source bytes DEC.c reads and validates: all `m`, or only the `ceil(k / N)` it consumes (40_contract R60). -/
def decReadCount (c : Config) (chunkN k m : Nat) : Nat :=
  if c.validateAllSource then m else ceilDiv k chunkN

/-- Chunk `j` of a trit sequence: its trit `i` is `t[N*j + i]`, and the padding past the end is 0 (40_contract R53, R54). -/
def chunkAt (chunkN : Nat) (t : List Trit) (j : Nat) : Chunk := fun i => t.getD (chunkN * j + i) 0

end Sys2Proof.Machine
end

