-- ==== Sys2Proof/Machine/Ops.lean ====
section
/-! DEFINITION. The operations every command is made of: ending with a response, clobbering a destination, and the model fault
(00_scope R12, 40_contract R61, 60_exceptions R118 to R121). The engine takes no trap: nothing is saved, no mode changes and there is
no vector and no return (60_exceptions R117, R123, R124), so these endings are all there is to taking an exception. -/

namespace Sys2Proof.Machine

/-- What a step answers. -/
abbrev Answer := Host.Outcome State Fault Refusal

/-- The end of a command: one response (10_state R28), and `cidx` advances by one, whatever the outcome (10_state R21). -/
def finish (r : Response) (cause : Option Cause) (s : State) : State :=
  { s with trace := s.trace ++ [⟨r, cause⟩], cidx := s.cidx + 1 }

/-- `respond(OK, count)` (00_scope R12). -/
def respondOk (count : Nat) (s : State) : Answer := .next (finish ⟨.ok, count⟩ none s)

/-- `raise Fail(cause)`: STATUS = FAIL, COUNT = 0 (60_exceptions R118). -/
def raiseFail (c : FailCause) (s : State) : Answer := .next (finish ⟨.fail, 0⟩ (some (.fail c)) s)

/-- `raise Illegal(cause)`: STATUS = ILLEGAL, COUNT = 0, nothing written (60_exceptions R120). -/
def raiseIllegal (c : IllegalCause) (s : State) : Answer := .next (finish ⟨.illegal, 0⟩ (some (.illegal c)) s)

/-- `Clobber(T, a, n)` with fresh draws (40_contract R61, 20_memory R36; log entry 4). -/
def clobberT (a n : Nat) (s : State) : State :=
  { s with T := regionClobber Config.clobberedTrit s.T a s.draws n, draws := s.draws + n }

/-- `Clobber(B, a, n)` with fresh draws (40_contract R61, 20_memory R36; log entry 4). -/
def clobberB (a n : Nat) (s : State) : State :=
  { s with B := regionClobber Config.clobberedByte s.B a s.draws n, draws := s.draws + n }

/-- The undefined response of a command that read an unwritten cell: a free STATUS among the three that exist and a free COUNT of
COUNT_W bits (60_exceptions R121; log entry 2). -/
def freeResponse (c : Config) (draw : Nat) : Response :=
  ⟨statusOfCode (Config.freeStatus draw), Config.freeCount draw % 2 ^ countW c⟩

/-- The mark after a model fault: the first fault stays (60_exceptions R121). -/
def firstFault (mark : Option ModelFault) (f : ModelFault) : ModelFault := mark.getD f

/-- The model fault `UNINIT_READ` (60_exceptions R121). It sets the mark, unless one is set already, with the command's index and the
address. The command's response and writes are undefined: the response is free, and every cell of T and of B keeps its state or takes
a free value. The command still advances `cidx` (10_state R21). DEDUCED (log entry 2). -/
def raiseUninit (space : SpaceName) (addr : Nat) (s : State) : Answer :=
  let s1 := clobberB 0 s.cfg.bSize (clobberT 0 s.cfg.tSize s)
  .next (finish (freeResponse s.cfg s1.draws) none
    { s1 with
      faultMark := some (firstFault s.faultMark (.uninitRead space s.cidx addr))
      draws := s1.draws + 1 })

/-- A command writes a list of bytes to B from `a` up (40_contract R59). -/
def storeBytes (a : Nat) (vs : List Byte) (s : State) : State := { s with B := regionWrite s.B a vs }

/-- A command writes a list of trits to T from `a` up (40_contract R60, R63). -/
def storeTrits (a : Nat) (vs : List Trit) (s : State) : State := { s with T := regionWrite s.T a vs }

end Sys2Proof.Machine
end

