-- ==== Sys2Proof/Machine/Contract.lean ====
section
/-! DEFINITION. The codec contract: the four operations, once over any codec (40_contract R56 to R62). -/

namespace Sys2Proof.Machine

/-- A codec: its chunk size and its three chunk functions (40_contract R56). `decodeChunk` is only applied to bytes with
`valid`. -/
structure Codec where
  /-- `N_c` (40_contract R52). -/
  chunkN : Nat
  /-- `EncodeChunk_c`. -/
  encodeChunk : Chunk → Byte
  /-- `Valid_c`. -/
  valid : Byte → Bool
  /-- `DecodeChunk_c`: the list of the chunk's `N_c` trits. -/
  decodeChunk : Byte → List Trit

/-- `ENCSZ_c(n)`: COUNT is `ceil(n / N_c)` (40_contract R57). -/
def encodedSize (chunkN n : Nat) (s : State) : Answer := respondOk (ceilDiv n chunkN) s

/-- `DECSZ_c(m)`: COUNT is `m * N_c` (40_contract R58). -/
def decodedSize (chunkN m : Nat) (s : State) : Answer := respondOk (m * chunkN) s

/-- The encoded bytes of a trit sequence: byte `j` is the encoding of chunk `j`, the last chunk padded with 0
(40_contract R53, R54, R59). -/
def encodeTrits (c : Codec) (t : List Trit) : List Byte :=
  (List.range (ceilDiv t.length c.chunkN)).map fun j => c.encodeChunk (chunkAt c.chunkN t j)

/-- `ENC_c(d, cap, s, n)`: the checks in the order BOUNDS, CAPACITY, UNINIT_READ (40_contract R59, 60_exceptions R122). -/
def encodeSlice (c : Codec) (d cap src n : Nat) (s : State) : Answer :=
  if encInBounds s.cfg d cap src n then
    if cap < ceilDiv n c.chunkN then raiseFail .capacity (clobberB d cap s)
    else
      match regionRead s.T src n with
      | .error a => raiseUninit .T a s
      | .ok t => respondOk (ceilDiv n c.chunkN) (storeBytes d (encodeTrits c t) s)
  else raiseIllegal .bounds s

/-- The decoded trits of a byte sequence, in order (40_contract R53, R60). -/
def decodeBytes (c : Codec) (b : List Byte) : List Trit := b.flatMap c.decodeChunk

/-- `DEC_c(d, k, s, m)`: the checks in the order BOUNDS, CAPACITY, UNINIT_READ, INVALID_CODEPOINT (40_contract R60,
60_exceptions R122). Every byte read is validated whole; trits past the requested ones are discarded unchecked (R55). -/
def decodeSlice (c : Codec) (d k src m : Nat) (s : State) : Answer :=
  if decInBounds s.cfg d k src m then
    if m * c.chunkN < k then raiseFail .capacity (clobberT d k s)
    else
      match regionRead s.B src (decReadCount s.cfg c.chunkN k m) with
      | .error a => raiseUninit .B a s
      | .ok b =>
        if b.all c.valid then
          respondOk 0 (storeTrits d ((decodeBytes c (b.take (ceilDiv k c.chunkN))).take k) s)
        else raiseFail .invalidCodepoint (clobberT d k s)
  else raiseIllegal .bounds s

end Sys2Proof.Machine
end

