-- ==== Sys2Proof/Machine/Base243.lean ====
section
/-! DEFINITION. The Base243PreDiv codec and its four commands (42_base243prediv). -/

namespace Sys2Proof.Machine

/-- `EncodeChunk_B243(x) = (Val3(x) * 256 + 242) div 243` (42_base243prediv R77). -/
def base243Encode (x : Chunk) : Byte := BitVec.ofNat 8 ((val3 x * 256 + 242) / 243)

/-- `Valid_B243(b) = true` for every byte: no extracted value can exceed 2 (42_base243prediv R80, 92 D16). -/
def base243Valid (_b : Byte) : Bool := true

/-- The digit-extraction loop: `e = y * 3`, the trit is `e >> 8`, the new `y` is `e & 0xFF`. The first trit extracted is the most
significant, so each trit goes in front of those extracted before it (42_base243prediv R79). -/
def base243Extract : Nat → Nat → List Trit → List Trit
  | 0, _, done => done
  | n + 1, y, done => base243Extract n ((y * 3) &&& 0xFF) (tritOf ((y * 3) >>> 8) :: done)

/-- `DecodeChunk_B243(b)`: five extractions, trit 4 first (42_base243prediv R79). -/
def base243Decode (b : Byte) : List Trit := base243Extract 5 b.toNat []

/-- Codec 1, N = 5 (00_scope R2). -/
def base243 : Codec := ⟨5, base243Encode, base243Valid, base243Decode⟩

/-- ENCSZ.B243 (42_base243prediv R82). A0, A1, A2 are ignored (30_encoding R47). -/
def execEncszB243 (_a0 _a1 _a2 n : Nat) (s : State) : Answer := encodedSize base243.chunkN n s

/-- ENC.B243 (42_base243prediv R83). -/
def execEncB243 (d cap src n : Nat) (s : State) : Answer := encodeSlice base243 d cap src n s

/-- DECSZ.B243 (42_base243prediv R84). A0, A1, A2 are ignored (30_encoding R47). -/
def execDecszB243 (_a0 _a1 _a2 m : Nat) (s : State) : Answer := decodedSize base243.chunkN m s

/-- DEC.B243 (42_base243prediv R85). -/
def execDecB243 (d k src m : Nat) (s : State) : Answer := decodeSlice base243 d k src m s

end Sys2Proof.Machine
end

