-- ==== Sys2Proof/Machine/Base3.lean ====
section
/-! DEFINITION. The Base3 codec and its four commands (41_base3). -/

namespace Sys2Proof.Machine

/-- `EncodeChunk_B3(x) = Val3(x)` (41_base3 R70). -/
def base3Encode (x : Chunk) : Byte := BitVec.ofNat 8 (val3 x)

/-- `Valid_B3(b) = (b <= 242)` (41_base3 R71, 90_conflicts C3). -/
def base3Valid (b : Byte) : Bool := decide (b.toNat ≤ 242)

/-- `DecodeChunk_B3(b)`: five extractions of `mod 3`, trit 0 first (41_base3 R72). -/
def base3Decode (b : Byte) : List Trit := digits3 5 b.toNat

/-- Codec 0, N = 5 (00_scope R2). -/
def base3 : Codec := ⟨5, base3Encode, base3Valid, base3Decode⟩

/-- ENCSZ.B3 (41_base3 R73). A0, A1, A2 are ignored (30_encoding R47). -/
def execEncszB3 (_a0 _a1 _a2 n : Nat) (s : State) : Answer := encodedSize base3.chunkN n s

/-- ENC.B3 (41_base3 R74). -/
def execEncB3 (d cap src n : Nat) (s : State) : Answer := encodeSlice base3 d cap src n s

/-- DECSZ.B3 (41_base3 R75). A0, A1, A2 are ignored (30_encoding R47). -/
def execDecszB3 (_a0 _a1 _a2 m : Nat) (s : State) : Answer := decodedSize base3.chunkN m s

/-- DEC.B3 (41_base3 R76). -/
def execDecB3 (d k src m : Nat) (s : State) : Answer := decodeSlice base3 d k src m s

end Sys2Proof.Machine
end

