-- ==== Sys2Proof/Machine/Bct.lean ====
section
/-! DEFINITION. The BCT codec and its four commands (43_bct). -/

namespace Sys2Proof.Machine

/-- `EncodeChunk_BCT(x)`: trit `i` in bits `[2i+1:2i]` (43_bct R86, R87). -/
def bctEncode (x : Chunk) : Byte :=
  BitVec.ofNat 8 ((x 0).val ||| ((x 1).val <<< 2) ||| ((x 2).val <<< 4) ||| ((x 3).val <<< 6))

/-- The 2-bit field `i` of a byte (43_bct R86). -/
def bctField (b : Byte) (i : Nat) : Nat := (b.toNat >>> (2 * i)) &&& 3

/-- `Valid_BCT(b)`: no 2-bit field is 3 (43_bct R88). -/
def bctValid (b : Byte) : Bool := (List.range 4).all fun i => decide (bctField b i ≠ 3)

/-- `DecodeChunk_BCT(b)`: the four fields (43_bct R89). -/
def bctDecode (b : Byte) : List Trit := (List.range 4).map fun i => tritOf (bctField b i)

/-- Codec 2, N = 4 (00_scope R2). -/
def bct : Codec := ⟨4, bctEncode, bctValid, bctDecode⟩

/-- ENCSZ.BCT (43_bct R90). A0, A1, A2 are ignored (30_encoding R47). -/
def execEncszBct (_a0 _a1 _a2 n : Nat) (s : State) : Answer := encodedSize bct.chunkN n s

/-- ENC.BCT (43_bct R91). -/
def execEncBct (d cap src n : Nat) (s : State) : Answer := encodeSlice bct d cap src n s

/-- DECSZ.BCT (43_bct R92). A0, A1, A2 are ignored (30_encoding R47). -/
def execDecszBct (_a0 _a1 _a2 m : Nat) (s : State) : Answer := decodedSize bct.chunkN m s

/-- DEC.BCT (43_bct R93). -/
def execDecBct (d k src m : Nat) (s : State) : Answer := decodeSlice bct d k src m s

end Sys2Proof.Machine
end

