-- ==== Sys2Proof/Machine/Dpt.lean ====
section
/-! DEFINITION. The DPT codec, over the table the parameters hold, and its four commands (44_dpt). The default table stands in
Machine/DptTable.lean. -/

namespace Sys2Proof.Machine

/-- `EncodeChunk_DPT(x)`: the table's byte for the chunk (44_dpt R106, R111). -/
def dptEncode (table : List Byte) (x : Chunk) : Byte := tableByte table (val3 x)

/-- `Valid_DPT`: true exactly on the image of the encoder (44_dpt R104, R111.4). -/
def dptValid (table : List Byte) (y : Byte) : Bool := table.contains y

/-- `DecodeChunk_DPT`: the inverse of the encoder on its image (44_dpt R111.4). -/
def dptDecode (table : List Byte) (y : Byte) : List Trit := digits3 5 (table.idxOf y)

/-- Codec 3, N = 5 (00_scope R2), with the layout `DPT_TABLE` (00_scope R10). -/
def dpt (table : List Byte) : Codec := ⟨5, dptEncode table, dptValid table, dptDecode table⟩

/-- `Valid_DPT` of the default instance, from the bits (44_dpt R108). -/
def dptDefaultValid (y : Byte) : Bool :=
  !(y.getLsbD 7 && y.getLsbD 3 && decide (y.toNat / 16 % 4 = 3) &&
    (!y.getLsbD 6 || decide (3 ≤ y.toNat % 8)))

/-- The pair values and the trailing trit of a byte of the default instance, bits 7 and 3 first (44_dpt R105, R109). -/
def dptDefaultFields (y : Byte) : Nat × Nat × Nat :=
  let low := y.toNat % 8
  let high := y.toNat / 16 % 8
  let mid := y.toNat / 16 % 4
  if y.getLsbD 7 = false then (low, high, (y.getLsbD 3).toNat)
  else if y.getLsbD 3 = false then (low, high, 2)
  else if y.getLsbD 6 = false then (low, 8, mid)
  else if mid ≤ 2 then (8, low, mid)
  else (8, 8, low)

/-- `DecodeChunk_DPT` of the default instance (44_dpt R98, R109). -/
def dptDefaultDecode (y : Byte) : List Trit :=
  let f := dptDefaultFields y
  [tritOf (f.1 % 3), tritOf (f.1 / 3), tritOf (f.2.1 % 3), tritOf (f.2.1 / 3), tritOf f.2.2]

/-- ENCSZ.DPT (44_dpt R113). A0, A1, A2 are ignored (30_encoding R47). -/
def execEncszDpt (_a0 _a1 _a2 n : Nat) (s : State) : Answer := encodedSize (dpt s.cfg.dptTable).chunkN n s

/-- ENC.DPT (44_dpt R114). -/
def execEncDpt (d cap src n : Nat) (s : State) : Answer := encodeSlice (dpt s.cfg.dptTable) d cap src n s

/-- DECSZ.DPT (44_dpt R115). A0, A1, A2 are ignored (30_encoding R47). -/
def execDecszDpt (_a0 _a1 _a2 m : Nat) (s : State) : Answer := decodedSize (dpt s.cfg.dptTable).chunkN m s

/-- DEC.DPT (44_dpt R116). -/
def execDecDpt (d k src m : Nat) (s : State) : Answer := decodeSlice (dpt s.cfg.dptTable) d k src m s

end Sys2Proof.Machine
end

