-- ==== Sys2Proof/Machine/TritNew.lean ====
section
/-! DEFINITION. Trit construction from an integer (40_contract R63). -/

namespace Sys2Proof.Machine

/-- TRITNEW: BOUNDS, then INVALID_TRIT for every value of 3 or more, with nothing written, else `T[d] <- v` (40_contract R63).
A1 and A2 are ignored. -/
def execTritnew (d _a1 _a2 v : Nat) (s : State) : Answer :=
  if tritnewInBounds s.cfg d then
    if 3 ≤ v then raiseFail .invalidTrit s
    else respondOk 0 (storeTrits d [tritOf v] s)
  else raiseIllegal .bounds s

end Sys2Proof.Machine
end

