-- ==== Sys2Proof/Syntax.lean ====
section
/-! DEFINITION. The commands: one constructor per row of the opcode table (30_encoding R46). Every constructor carries all four
operand words of its descriptor, so that no bit of a descriptor is lost, and each word is the natural number it denotes
(R44: an unsigned integer, zero-extended). Which words a command reads is 30_encoding R47. -/

namespace Sys2Proof

/-- The four codecs, in the order of their numbers 0 to 3 (00_scope R2, 30_encoding R45 `OP[1:0]`). -/
inductive CodecName where
  | b3
  | b243
  | bct
  | dpt
  deriving DecidableEq, Repr

/-- The four contract operations, in the order of their numbers 0 to 3 (30_encoding R45 `OP[3:2]`). -/
inductive Func where
  | encsz
  | enc
  | decsz
  | dec
  deriving DecidableEq, Repr

/-- The 17 commands of the engine. The arguments are A0, A1, A2, A3 (10_state R27, 30_encoding R47). -/
inductive Instr where
  /-- 0x00: A3 = trit count; A0, A1, A2 ignored. -/
  | encszB3 (a0 a1 a2 a3 : Nat)
  /-- 0x01: as 0x00. -/
  | encszB243 (a0 a1 a2 a3 : Nat)
  /-- 0x02: as 0x00. -/
  | encszBct (a0 a1 a2 a3 : Nat)
  /-- 0x03: as 0x00. -/
  | encszDpt (a0 a1 a2 a3 : Nat)
  /-- 0x04: A0 = destination base in B, A1 = capacity in bytes, A2 = source base in T, A3 = trit count. -/
  | encB3 (a0 a1 a2 a3 : Nat)
  /-- 0x05: as 0x04. -/
  | encB243 (a0 a1 a2 a3 : Nat)
  /-- 0x06: as 0x04. -/
  | encBct (a0 a1 a2 a3 : Nat)
  /-- 0x07: as 0x04. -/
  | encDpt (a0 a1 a2 a3 : Nat)
  /-- 0x08: A3 = byte count; A0, A1, A2 ignored. -/
  | decszB3 (a0 a1 a2 a3 : Nat)
  /-- 0x09: as 0x08. -/
  | decszB243 (a0 a1 a2 a3 : Nat)
  /-- 0x0A: as 0x08. -/
  | decszBct (a0 a1 a2 a3 : Nat)
  /-- 0x0B: as 0x08. -/
  | decszDpt (a0 a1 a2 a3 : Nat)
  /-- 0x0C: A0 = destination base in T, A1 = requested trit count, A2 = source base in B, A3 = byte count. -/
  | decB3 (a0 a1 a2 a3 : Nat)
  /-- 0x0D: as 0x0C. -/
  | decB243 (a0 a1 a2 a3 : Nat)
  /-- 0x0E: as 0x0C. -/
  | decBct (a0 a1 a2 a3 : Nat)
  /-- 0x0F: as 0x0C. -/
  | decDpt (a0 a1 a2 a3 : Nat)
  /-- 0x10: A0 = destination address in T, A3 = integer argument; A1, A2 ignored. -/
  | tritnew (a0 a1 a2 a3 : Nat)
  deriving DecidableEq, Repr

end Sys2Proof
end

