-- ==== Sys2Proof/Machine/Dispatch.lean ====
section
/-! DEFINITION. One arm per command: the meaning it calls. -/

namespace Sys2Proof.Machine

open Sys2Proof

def exec (i : Instr) (s : State) : Host.Outcome State Fault Refusal :=
  match i with
  | .encszB3 a0 a1 a2 a3 => Sys2Proof.Machine.execEncszB3 a0 a1 a2 a3 s
  | .encszB243 a0 a1 a2 a3 => Sys2Proof.Machine.execEncszB243 a0 a1 a2 a3 s
  | .encszBct a0 a1 a2 a3 => Sys2Proof.Machine.execEncszBct a0 a1 a2 a3 s
  | .encszDpt a0 a1 a2 a3 => Sys2Proof.Machine.execEncszDpt a0 a1 a2 a3 s
  | .encB3 a0 a1 a2 a3 => Sys2Proof.Machine.execEncB3 a0 a1 a2 a3 s
  | .encB243 a0 a1 a2 a3 => Sys2Proof.Machine.execEncB243 a0 a1 a2 a3 s
  | .encBct a0 a1 a2 a3 => Sys2Proof.Machine.execEncBct a0 a1 a2 a3 s
  | .encDpt a0 a1 a2 a3 => Sys2Proof.Machine.execEncDpt a0 a1 a2 a3 s
  | .decszB3 a0 a1 a2 a3 => Sys2Proof.Machine.execDecszB3 a0 a1 a2 a3 s
  | .decszB243 a0 a1 a2 a3 => Sys2Proof.Machine.execDecszB243 a0 a1 a2 a3 s
  | .decszBct a0 a1 a2 a3 => Sys2Proof.Machine.execDecszBct a0 a1 a2 a3 s
  | .decszDpt a0 a1 a2 a3 => Sys2Proof.Machine.execDecszDpt a0 a1 a2 a3 s
  | .decB3 a0 a1 a2 a3 => Sys2Proof.Machine.execDecB3 a0 a1 a2 a3 s
  | .decB243 a0 a1 a2 a3 => Sys2Proof.Machine.execDecB243 a0 a1 a2 a3 s
  | .decBct a0 a1 a2 a3 => Sys2Proof.Machine.execDecBct a0 a1 a2 a3 s
  | .decDpt a0 a1 a2 a3 => Sys2Proof.Machine.execDecDpt a0 a1 a2 a3 s
  | .tritnew a0 a1 a2 a3 => Sys2Proof.Machine.execTritnew a0 a1 a2 a3 s

end Sys2Proof.Machine
end

