-- ==== Sys2Proof/Decode.lean ====
section
/-! DEFINITION. The decoder of a command descriptor, total on every number, and after it the encoder
(30_encoding R44, R45, R46, R49). A descriptor is the packed number of R44: OP at bits [7:0], then A0, A1, A2, A3 of ADDR_W bits
each, upward. -/

namespace Sys2Proof

/-- The length of a descriptor in bits, `8 + 4 * ADDR_W` (30_encoding R44). -/
def descriptorBits (addrW : Nat) : Nat := 8 + 4 * addrW

/-- `w[lo+width-1 : lo]` as a natural number (00_scope R11). -/
def bitField (w lo width : Nat) : Nat := w / 2 ^ lo % 2 ^ width

/-- Why a number is not a command. -/
inductive DecodeError where
  /-- OP is outside the opcode map: 0x11 to 0xFF (30_encoding R49). The engine answers it with ILLEGAL(OPCODE). -/
  | illegalOpcode (op : Nat)
  /-- The number has more bits than a descriptor (30_encoding R44): the command port cannot carry it. DESIGN CHOICE
  (log entry 8): safe. -/
  | notADescriptor
  deriving DecidableEq, Repr

/-- The codec of `OP[1:0]` (30_encoding R45). -/
def codecOfNumber : Nat → CodecName
  | 0 => .b3
  | 1 => .b243
  | 2 => .bct
  | _ => .dpt

/-- The function of `OP[3:2]` (30_encoding R45). -/
def funcOfNumber : Nat → Func
  | 0 => .encsz
  | 1 => .enc
  | 2 => .decsz
  | _ => .dec

/-- The codec command of a function and a codec (30_encoding R46). -/
def codecCommand (f : Func) (c : CodecName) (a0 a1 a2 a3 : Nat) : Instr :=
  match f, c with
  | .encsz, .b3 => .encszB3 a0 a1 a2 a3
  | .encsz, .b243 => .encszB243 a0 a1 a2 a3
  | .encsz, .bct => .encszBct a0 a1 a2 a3
  | .encsz, .dpt => .encszDpt a0 a1 a2 a3
  | .enc, .b3 => .encB3 a0 a1 a2 a3
  | .enc, .b243 => .encB243 a0 a1 a2 a3
  | .enc, .bct => .encBct a0 a1 a2 a3
  | .enc, .dpt => .encDpt a0 a1 a2 a3
  | .decsz, .b3 => .decszB3 a0 a1 a2 a3
  | .decsz, .b243 => .decszB243 a0 a1 a2 a3
  | .decsz, .bct => .decszBct a0 a1 a2 a3
  | .decsz, .dpt => .decszDpt a0 a1 a2 a3
  | .dec, .b3 => .decB3 a0 a1 a2 a3
  | .dec, .b243 => .decB243 a0 a1 a2 a3
  | .dec, .bct => .decBct a0 a1 a2 a3
  | .dec, .dpt => .decDpt a0 a1 a2 a3

/-- The decoder line of 30_encoding R46: CLASS 0 is a codec command, OP 0x10 is TRITNEW, every other OP is illegal (R49). -/
def decodeFields (op a0 a1 a2 a3 : Nat) : Except DecodeError Instr :=
  if op / 16 = 0 then
    .ok (codecCommand (funcOfNumber (bitField op 2 2)) (codecOfNumber (bitField op 0 2)) a0 a1 a2 a3)
  else if op = 0x10 then .ok (.tritnew a0 a1 a2 a3)
  else .error (.illegalOpcode op)

/-- The decoder: the command a packed descriptor stands for, or the reason it stands for none (30_encoding R44, R46, R49). -/
def decode (addrW w : Nat) : Except DecodeError Instr :=
  if 2 ^ descriptorBits addrW ≤ w then .error .notADescriptor
  else
    decodeFields (bitField w 0 8) (bitField w 8 addrW) (bitField w (8 + addrW) addrW)
      (bitField w (8 + 2 * addrW) addrW) (bitField w (8 + 3 * addrW) addrW)

/-- The OP of a command (30_encoding R46, column OP). -/
def Instr.opcode : Instr → Nat
  | .encszB3 .. => 0x00
  | .encszB243 .. => 0x01
  | .encszBct .. => 0x02
  | .encszDpt .. => 0x03
  | .encB3 .. => 0x04
  | .encB243 .. => 0x05
  | .encBct .. => 0x06
  | .encDpt .. => 0x07
  | .decszB3 .. => 0x08
  | .decszB243 .. => 0x09
  | .decszBct .. => 0x0A
  | .decszDpt .. => 0x0B
  | .decB3 .. => 0x0C
  | .decB243 .. => 0x0D
  | .decBct .. => 0x0E
  | .decDpt .. => 0x0F
  | .tritnew .. => 0x10

/-- The operand words A0, A1, A2, A3 of a command (10_state R27). -/
def Instr.words : Instr → Nat × Nat × Nat × Nat
  | .encszB3 a0 a1 a2 a3 => (a0, a1, a2, a3)
  | .encszB243 a0 a1 a2 a3 => (a0, a1, a2, a3)
  | .encszBct a0 a1 a2 a3 => (a0, a1, a2, a3)
  | .encszDpt a0 a1 a2 a3 => (a0, a1, a2, a3)
  | .encB3 a0 a1 a2 a3 => (a0, a1, a2, a3)
  | .encB243 a0 a1 a2 a3 => (a0, a1, a2, a3)
  | .encBct a0 a1 a2 a3 => (a0, a1, a2, a3)
  | .encDpt a0 a1 a2 a3 => (a0, a1, a2, a3)
  | .decszB3 a0 a1 a2 a3 => (a0, a1, a2, a3)
  | .decszB243 a0 a1 a2 a3 => (a0, a1, a2, a3)
  | .decszBct a0 a1 a2 a3 => (a0, a1, a2, a3)
  | .decszDpt a0 a1 a2 a3 => (a0, a1, a2, a3)
  | .decB3 a0 a1 a2 a3 => (a0, a1, a2, a3)
  | .decB243 a0 a1 a2 a3 => (a0, a1, a2, a3)
  | .decBct a0 a1 a2 a3 => (a0, a1, a2, a3)
  | .decDpt a0 a1 a2 a3 => (a0, a1, a2, a3)
  | .tritnew a0 a1 a2 a3 => (a0, a1, a2, a3)

/-- The packed number of five descriptor fields (30_encoding R44). -/
def packFields (addrW op a0 a1 a2 a3 : Nat) : Nat :=
  op + a0 * 2 ^ 8 + a1 * 2 ^ (8 + addrW) + a2 * 2 ^ (8 + 2 * addrW) + a3 * 2 ^ (8 + 3 * addrW)

/-- The encoder: the packed descriptor of a command whose words fit (30_encoding R44, R46). -/
def encode (addrW : Nat) (i : Instr) : Nat :=
  packFields addrW i.opcode i.words.1 i.words.2.1 i.words.2.2.1 i.words.2.2.2

/-- The operand width the spec uses in its examples and test vectors (00_scope R9: `ADDR_W` = 16). -/
def exampleAddrW : Nat := 16

/-- What the decoder reads from a descriptor whose low `nbits` bits are `w` and whose other bits are 0, at the example width. -/
def decodeTableWord (nbits w : Nat) : Option Instr :=
  match decode exampleAddrW (w % 2 ^ nbits) with
  | .ok i => some i
  | .error _ => none

end Sys2Proof
end

