-- ==== Sys2Proof/Machine/Fetch.lean ====
section
/-! DEFINITION. The command port: the next descriptor of the stream, what becomes of a number that is no command, and how a stream is
placed (10_state R21, R27; 30_encoding R49). The engine fetches nothing from T or B (20_memory R42). -/

namespace Sys2Proof.Machine

/-- The descriptor the host presents next: entry `cidx` of the stream (10_state R21, R27). -/
def nextDescriptor (s : State) : Option Nat := s.stream[s.cidx]?

/-- The answer to a number that is no command: ILLEGAL(OPCODE) for an OP outside the map (30_encoding R49, 60_exceptions R120), and a
refusal for a number that is no descriptor at all (log entry 8). -/
def rejectDescriptor (e : DecodeError) (s : State) : Answer :=
  match e with
  | .illegalOpcode _ => raiseIllegal .opcode s
  | .notADescriptor => .refused .notADescriptor

/-- The stream with `w` as the command at index `k`; entries before it that the stream lacks become descriptors of zeros. -/
def placeAt (stream : List Nat) (k w : Nat) : List Nat :=
  stream.take k ++ List.replicate (k - stream.length) 0 ++ w :: stream.drop (k + 1)

end Sys2Proof.Machine
end

