-- ==== Sys2Proof/Machine/Step.lean ====
section
/-! DEFINITION. One step: the next command of the stream, run as one indivisible step (00_scope R8, 10_state R21, R27). -/

namespace Sys2Proof.Machine

/-- One command of the stream. After the last one the run has ended and the step is refused (10_state R21). -/
def step (s : State) : Host.Outcome State Fault Refusal :=
  match nextDescriptor s with
  | none => .refused .endOfStream
  | some w =>
    match decode s.cfg.addrW w with
    | .ok i => exec i s
    | .error e => rejectDescriptor e s

/-- The state with the descriptor whose low `nbits` bits are `w`, and whose other bits are 0, as the next command of the stream. It
stands for the host's launch of a stream (log entry 7). -/
def State.withFetchWord (s : State) (nbits w : Nat) : State :=
  { s with stream := placeAt s.stream s.cidx (w % 2 ^ nbits) }

end Sys2Proof.Machine
end

