-- ==== Sys2Proof/WellFormed.lean ====
section
/-! DEFINITION. When a command is well formed: every operand word fits in ADDR_W bits (10_state R27, 30_encoding R44, R50). -/

namespace Sys2Proof

/-- Every operand word of the command is an `ADDR_W`-bit number (10_state R27, 30_encoding R44). -/
abbrev Instr.WellFormed (addrW : Nat) (i : Instr) : Prop :=
  i.words.1 < 2 ^ addrW ∧ i.words.2.1 < 2 ^ addrW ∧ i.words.2.2.1 < 2 ^ addrW ∧ i.words.2.2.2 < 2 ^ addrW

end Sys2Proof
end

