-- ==== Sys2Proof/Machine/Assembler.lean ====
section
/-! DEFINITION. The assembler: operand forms, pseudo-instructions and the listing (30_encoding R50, R51). -/

namespace Sys2Proof.Machine

/-- An operand as it is written: a number, or a region base that names its space (30_encoding R50). -/
inductive AsmOperand where
  | num (n : Nat)
  | tBase (a : Nat)
  | bBase (a : Nat)
  deriving DecidableEq, Repr

/-- A mnemonic: `FUNC.CODEC`, TRITNEW, or a pseudo-instruction (30_encoding R50, R51). -/
inductive Mnemonic where
  | codec (f : Func) (c : CodecName)
  | tritnew
  /-- `ENC1.c` -/
  | enc1 (c : CodecName)
  /-- `DEC1.c` -/
  | dec1 (c : CodecName)
  /-- `TRIT`, an alias of TRITNEW -/
  | trit
  deriving DecidableEq, Repr

/-- What the assembler reports (30_encoding R50). -/
inductive AsmError where
  /-- The operands are not of the mnemonic's form: their number, or a space letter that does not match. -/
  | operandForm
  /-- An operand does not fit in ADDR_W bits. -/
  | operandTooWide
  deriving DecidableEq, Repr

/-- The chunk size of a codec: 4 for BCT, 5 for the others (30_encoding R51, 40_contract R52). -/
def chunkSizeOf : CodecName → Nat
  | .b3 => 5
  | .b243 => 5
  | .bct => 4
  | .dpt => 5

/-- The command of a mnemonic and its operands; 0 in every ignored word (30_encoding R50, R51). -/
def asmForm : Mnemonic → List AsmOperand → Option Instr
  | .codec .encsz c, [.num n] => some (codecCommand .encsz c 0 0 0 n)
  | .codec .enc c, [.bBase d, .num cap, .tBase s, .num n] => some (codecCommand .enc c d cap s n)
  | .codec .decsz c, [.num m] => some (codecCommand .decsz c 0 0 0 m)
  | .codec .dec c, [.tBase d, .num k, .bBase s, .num m] => some (codecCommand .dec c d k s m)
  | .tritnew, [.tBase d, .num v] => some (.tritnew d 0 0 v)
  | .enc1 c, [.bBase d, .tBase s] => some (codecCommand .enc c d 1 s (chunkSizeOf c))
  | .dec1 c, [.tBase d, .bBase s] => some (codecCommand .dec c d (chunkSizeOf c) s 1)
  | .trit, [.tBase d, .num v] => some (.tritnew d 0 0 v)
  | _, _ => none

/-- The assembler: an operand that does not fit in ADDR_W bits is an error, and so is a wrong space letter (30_encoding R50). -/
def assemble (addrW : Nat) (m : Mnemonic) (ops : List AsmOperand) : Except AsmError Instr :=
  match asmForm m ops with
  | none => .error .operandForm
  | some i => if i.WellFormed addrW then .ok i else .error .operandTooWide

/-- `n` hexadecimal digits of a number, most significant first, in capitals. -/
def hexDigits : Nat → Nat → List Char
  | 0, _ => []
  | n + 1, v =>
    hexDigits n (v / 16) ++ [['0', '1', '2', '3', '4', '5', '6', '7', '8', '9', 'A', 'B', 'C', 'D', 'E', 'F'].getD (v % 16) '0']

/-- The listing `OP A0 A1 A2 A3` of a command in hexadecimal: two digits of OP and as many per word as ADDR_W bits need
(30_encoding R50; the digit count for other widths than 16 is DEDUCED, log entry 18). -/
def listing (addrW : Nat) (i : Instr) : List Char :=
  let word := fun w => ' ' :: hexDigits ((addrW + 3) / 4) w
  hexDigits 2 i.opcode ++ word i.words.1 ++ word i.words.2.1 ++ word i.words.2.2.1 ++ word i.words.2.2.2

end Sys2Proof.Machine
end

