-- ==== Sys2Proof/Machine/HostPort.lean ====
section
/-! DEFINITION. What the host does to the machine between commands: reading and writing cells, launching a command stream, and the
resets (10_state R26; 70_reset_and_hazards R133, R134, R135). None of it is part of a step (log entry 10). -/

namespace Sys2Proof.Machine

/-- The host reads a cell of T: its value, or `none` for an unwritten cell. A cell outside T does not exist (10_state R26). -/
def hostReadT (a : Nat) (s : State) : Except Fault (Option Trit) :=
  if a < s.cfg.tSize then .ok (cellRead s.T a) else .error (.noSuchCell .T a)

/-- The host reads a cell of B, as `hostReadT` (10_state R26). -/
def hostReadB (a : Nat) (s : State) : Except Fault (Option Byte) :=
  if a < s.cfg.bSize then .ok (cellRead s.B a) else .error (.noSuchCell .B a)

/-- The host writes a cell of T, which makes it written (10_state R26). -/
def hostWriteT (a : Nat) (v : Trit) (s : State) : Answer :=
  if a < s.cfg.tSize then .next { s with T := cellWrite s.T a v } else .fault (.noSuchCell .T a)

/-- The host writes a cell of B, which makes it written (10_state R26). -/
def hostWriteB (a : Nat) (v : Byte) (s : State) : Answer :=
  if a < s.cfg.bSize then .next { s with B := cellWrite s.B a v } else .fault (.noSuchCell .B a)

/-- The start of a command stream: `cidx` 0, no fault mark, no response yet; T and B are as the host left them
(70_reset_and_hazards R133, R135). -/
def launch (p : List Nat) (s : State) : State :=
  { s with stream := p, cidx := 0, faultMark := none, trace := [] }

/-- An engine reset between commands sets nothing: the engine holds no state, and T and B are unchanged
(70_reset_and_hazards R133; log entry 17). -/
def engineReset (s : State) : State := s

/-- The destination of a codec command as after FAIL, if the command would have passed its bounds check. -/
def clobberDestination (i : Instr) (s : State) : State :=
  match i with
  | .encB3 d cap src n => if encInBounds s.cfg d cap src n then clobberB d cap s else s
  | .encB243 d cap src n => if encInBounds s.cfg d cap src n then clobberB d cap s else s
  | .encBct d cap src n => if encInBounds s.cfg d cap src n then clobberB d cap s else s
  | .encDpt d cap src n => if encInBounds s.cfg d cap src n then clobberB d cap s else s
  | .decB3 d k src m => if decInBounds s.cfg d k src m then clobberT d k s else s
  | .decB243 d k src m => if decInBounds s.cfg d k src m then clobberT d k s else s
  | .decBct d k src m => if decInBounds s.cfg d k src m then clobberT d k s else s
  | .decDpt d k src m => if decInBounds s.cfg d k src m then clobberT d k s else s
  | .encszB3 .. => s
  | .encszB243 .. => s
  | .encszBct .. => s
  | .encszDpt .. => s
  | .decszB3 .. => s
  | .decszB243 .. => s
  | .decszBct .. => s
  | .decszDpt .. => s
  | .tritnew .. => s

/-- A reset during the command `i`, on an implementation where it can happen: the destination region is left as after FAIL, no response
is returned and no other cell changes (70_reset_and_hazards R134). No step of the model does this: a command is one indivisible step
(log entry 11). -/
def resetDuring (i : Instr) (s : State) : State := clobberDestination i s

end Sys2Proof.Machine
end

