-- ==== Sys2Proof/Safety.lean ====
section
/-! DEFINITION. What counts as a good state and a good run, and the words the statements use. -/

namespace Sys2Proof.Machine

/-! ## Runs -/

/-- The run of the launched stream is final (70_reset_and_hazards R136). -/
def State.isFinal (s : State) : Prop := s.cidx = s.stream.length ∧ s.faultMark = none

/-- What the host may look at after a run: T, B and the sequence of responses; no cause label (70_reset_and_hazards R136,
60_exceptions R118). -/
def State.observation (s : State) : Space Trit × Space Byte × List Response :=
  (s.T, s.B, s.trace.map Completion.response)

/-- What a command added to the record of the run. -/
def completionOf : Answer → Option Completion
  | .next t => t.trace.getLast?
  | .fault _ => none
  | .refused _ => none

/-! ## Cells -/

section
variable {α : Type}

/-- The `n` cells from `a` up are written and hold `f 0, f 1, ...` (20_memory R30). -/
def RegionHolds (m : Space α) (a n : Nat) (f : Nat → α) : Prop := ∀ i < n, cellRead m (a + i) = some (f i)

/-- Every cell outside the `n` cells from `a` up reads as before. -/
def SameOutside (m m' : Space α) (a n : Nat) : Prop := ∀ x, ¬ (a ≤ x ∧ x < a + n) → cellRead m' x = cellRead m x

/-- Each of the `n` cells from `a` up keeps its state or is written with some value (40_contract R61). -/
def DrawnInside (m m' : Space α) (a n : Nat) : Prop :=
  ∀ i < n, cellRead m' (a + i) = cellRead m (a + i) ∨ ∃ v, cellRead m' (a + i) = some v

end

/-- Trit `i` of a sequence of `n` trits padded with zeros, as a number (40_contract R54). -/
def padded (t : Nat → Trit) (n i : Nat) : Nat := if i < n then (t i).val else 0

/-! ## Codecs -/

/-- The codec of a name, under the parameters (00_scope R2). -/
def codecOf (cfg : Config) : CodecName → Codec
  | .b3 => base3
  | .b243 => base243
  | .bct => bct
  | .dpt => dpt cfg.dptTable

/-- The byte is no codepoint of the codec (41_base3 R71, 42_base243prediv R80, 43_bct R88, 44_dpt R104, R111). -/
def InvalidCodepoint (cfg : Config) : CodecName → Byte → Prop
  | .b3, y => 243 ≤ y.toNat
  | .b243, _ => False
  | .bct, y => ∃ f < 4, y.toNat / 4 ^ f % 4 = 3
  | .dpt, y => y ∉ cfg.dptTable

/-- How many bytes DEC.c reads: all of them, or only the `ceil(k / N)` it consumes (40_contract R60). -/
def bytesRead (cfg : Config) (c : CodecName) (k m : Nat) : Nat := decReadCount cfg (chunkSizeOf c) k m

/-! ## What a command touches -/

/-- The T cells a command reads: base and length (20_memory R34). -/
def sourceT : Instr → Nat × Nat
  | .encB3 _ _ src n => (src, n)
  | .encB243 _ _ src n => (src, n)
  | .encBct _ _ src n => (src, n)
  | .encDpt _ _ src n => (src, n)
  | .encszB3 .. => (0, 0)
  | .encszB243 .. => (0, 0)
  | .encszBct .. => (0, 0)
  | .encszDpt .. => (0, 0)
  | .decszB3 .. => (0, 0)
  | .decszB243 .. => (0, 0)
  | .decszBct .. => (0, 0)
  | .decszDpt .. => (0, 0)
  | .decB3 .. => (0, 0)
  | .decB243 .. => (0, 0)
  | .decBct .. => (0, 0)
  | .decDpt .. => (0, 0)
  | .tritnew .. => (0, 0)

/-- The B cells a command reads: base and length (20_memory R34). -/
def sourceB (cfg : Config) : Instr → Nat × Nat
  | .decB3 _ k src m => (src, bytesRead cfg .b3 k m)
  | .decB243 _ k src m => (src, bytesRead cfg .b243 k m)
  | .decBct _ k src m => (src, bytesRead cfg .bct k m)
  | .decDpt _ k src m => (src, bytesRead cfg .dpt k m)
  | .encszB3 .. => (0, 0)
  | .encszB243 .. => (0, 0)
  | .encszBct .. => (0, 0)
  | .encszDpt .. => (0, 0)
  | .decszB3 .. => (0, 0)
  | .decszB243 .. => (0, 0)
  | .decszBct .. => (0, 0)
  | .decszDpt .. => (0, 0)
  | .encB3 .. => (0, 0)
  | .encB243 .. => (0, 0)
  | .encBct .. => (0, 0)
  | .encDpt .. => (0, 0)
  | .tritnew .. => (0, 0)

/-- The T cells a command may change: base and length (20_memory R34). -/
def destinationT : Instr → Nat × Nat
  | .decB3 d k _ _ => (d, k)
  | .decB243 d k _ _ => (d, k)
  | .decBct d k _ _ => (d, k)
  | .decDpt d k _ _ => (d, k)
  | .tritnew d _ _ _ => (d, 1)
  | .encszB3 .. => (0, 0)
  | .encszB243 .. => (0, 0)
  | .encszBct .. => (0, 0)
  | .encszDpt .. => (0, 0)
  | .decszB3 .. => (0, 0)
  | .decszB243 .. => (0, 0)
  | .decszBct .. => (0, 0)
  | .decszDpt .. => (0, 0)
  | .encB3 .. => (0, 0)
  | .encB243 .. => (0, 0)
  | .encBct .. => (0, 0)
  | .encDpt .. => (0, 0)

/-- The B cells a command may change: base and length (20_memory R34). -/
def destinationB : Instr → Nat × Nat
  | .encB3 d cap _ _ => (d, cap)
  | .encB243 d cap _ _ => (d, cap)
  | .encBct d cap _ _ => (d, cap)
  | .encDpt d cap _ _ => (d, cap)
  | .encszB3 .. => (0, 0)
  | .encszB243 .. => (0, 0)
  | .encszBct .. => (0, 0)
  | .encszDpt .. => (0, 0)
  | .decszB3 .. => (0, 0)
  | .decszB243 .. => (0, 0)
  | .decszBct .. => (0, 0)
  | .decszDpt .. => (0, 0)
  | .decB3 .. => (0, 0)
  | .decB243 .. => (0, 0)
  | .decBct .. => (0, 0)
  | .decDpt .. => (0, 0)
  | .tritnew .. => (0, 0)

/-- The host has written every cell the command reads (70_reset_and_hazards R135). -/
def SourceWritten (i : Instr) (s : State) : Prop :=
  (∀ j < (sourceT i).2, ∃ v, cellRead s.T ((sourceT i).1 + j) = some v) ∧
  (∀ j < (sourceB s.cfg i).2, ∃ v, cellRead s.B ((sourceB s.cfg i).1 + j) = some v)

/-! ## The invariant -/

/-- The number of cells of a space. -/
def spaceSize (cfg : Config) : SpaceName → Nat
  | .T => cfg.tSize
  | .B => cfg.bSize

/-- What holds of the machine between commands: the parameters are legal (00_scope R9), every stream entry is a descriptor
(30_encoding R44), both spaces are in canonical form and inside their sizes (20_memory R37), exactly one response per command taken
(10_state R28), the index is inside the stream (R21), every COUNT fits in COUNT_W bits (R28), a COUNT other than 0 comes with OK in a
run without a fault mark (R28), and a fault mark names an earlier command and a cell of its space (60_exceptions R121). -/
structure State.Inv (s : State) : Prop where
  cfg : ConfigOk s.cfg
  stream : ∀ w ∈ s.stream, w < 2 ^ descriptorBits s.cfg.addrW
  tCanonical : Memory.wf s.T
  tInside : Memory.inside s.cfg.tSize s.T
  bCanonical : Memory.wf s.B
  bInside : Memory.inside s.cfg.bSize s.B
  onePerCommand : s.trace.length = s.cidx
  index : s.cidx ≤ s.stream.length
  countFits : ∀ c ∈ s.trace, c.response.count < 2 ^ (s.cfg.addrW + 3)
  countOnlyOk : s.faultMark = none → ∀ c ∈ s.trace, c.response.status ≠ .ok → c.response.count = 0
  markEarlier : ∀ sp k a, s.faultMark = some (.uninitRead sp k a) → k < s.cidx ∧ a < spaceSize s.cfg sp

end Sys2Proof.Machine
end

