-- ==== Sys2Proof/Certificates/Slice0/Obligations.lean ====
section
/-! DEFINITION. The statements for the provers. Each docstring names the rule of spec/ it formalises; OBLIGATIONS.json lists them.
Wherever a statement gives a whole next state, the record `trace` is the model's form of the response a command returns (log entry 5),
the cause beside a response is the model's label (60_exceptions R119, log entry 6), and `draws` is the model's counter of free values
(log entry 4); no statement rests on the value of a free value. -/

open Sys2Proof Sys2Proof.Machine

/-! ## Encoding -/

/-- Decoding the packed descriptor of a well-formed command gives the command back, at every operand width and every operand value
(30_encoding R44, R45, R46); the packed number is a descriptor. -/
def Obligations.DecodeOfEncodeIsIdentity : Prop :=
  ∀ (addrW : Nat) (i : Instr), i.WellFormed addrW →
    encode addrW i < 2 ^ descriptorBits addrW ∧ decode addrW (encode addrW i) = .ok i

/-- Encoding what a descriptor decodes to gives the descriptor back, so no bit of it is dropped (30_encoding R44, R46, R47: an ignored
word is kept by the decoder although no command reads it). -/
def Obligations.EncodeOfDecodeIsIdentity : Prop :=
  ∀ (addrW w : Nat) (i : Instr), decode addrW w = .ok i → i.WellFormed addrW ∧ encode addrW i = w

/-- The OP of a descriptor is its low byte; it names a command when it is at most 0x10 and is an illegal opcode when it is 0x11 to 0xFF
(30_encoding R46, R49). -/
def Obligations.OpcodeMapIsExactly17Commands : Prop :=
  ∀ (addrW w : Nat), w < 2 ^ descriptorBits addrW →
    (w % 256 ≤ 0x10 → ∃ i, decode addrW w = .ok i ∧ i.opcode = w % 256) ∧
    (0x11 ≤ w % 256 → decode addrW w = .error (.illegalOpcode (w % 256)))

/-- Packed descriptors of the spec's own programs (95_test_vectors L3) decode to the commands they list. -/
def Obligations.ListedDescriptorsDecode : Prop :=
  decode 16 0x000200000000000110 = .ok (.tritnew 1 0 0 2) ∧
  decode 16 0x000900000003000006 = .ok (.encBct 0 3 0 9) ∧
  decode 16 0x00030000000900100E = .ok (.decBct 0x10 9 0 3) ∧
  decode 16 0x000700000000000003 = .ok (.encszDpt 0 0 0 7) ∧
  decode 16 0x00020010000700200F = .ok (.decDpt 0x20 7 0x10 2) ∧
  decode 16 0x000A00200002000A05 = .ok (.encB243 0x0A 2 0x20 0x0A) ∧
  decode 16 0x0005FFFFFFFFFFFF02 = .ok (.encszBct 0xFFFF 0xFFFF 0xFFFF 5) ∧
  decode 16 0x000000000000000011 = .error (.illegalOpcode 0x11)

/-- The assembler. What it accepts fits the operand width and survives encoding. Each form assembles to the command of the table, with 0 in
every ignored word, exactly when every operand fits in ADDR_W bits, and is refused as too wide otherwise; a base that does not name the
form's space, in any form and in either place, is refused (30_encoding R50; the same letters for the pseudo-instructions, R51). -/
def Obligations.AssembledCommandsAreWellFormed : Prop :=
  (∀ (addrW : Nat) (m : Mnemonic) (ops : List AsmOperand) (i : Instr), assemble addrW m ops = .ok i →
    i.WellFormed addrW ∧ decode addrW (encode addrW i) = .ok i) ∧
  (∀ (addrW n : Nat) (c : CodecName),
    assemble addrW (.codec .encsz c) [.num n] =
      (if n < 2 ^ addrW then .ok (codecCommand .encsz c 0 0 0 n) else .error .operandTooWide) ∧
    assemble addrW (.codec .decsz c) [.num n] =
      (if n < 2 ^ addrW then .ok (codecCommand .decsz c 0 0 0 n) else .error .operandTooWide)) ∧
  (∀ (addrW d len src n : Nat) (c : CodecName),
    assemble addrW (.codec .enc c) [.bBase d, .num len, .tBase src, .num n] =
      (if d < 2 ^ addrW ∧ len < 2 ^ addrW ∧ src < 2 ^ addrW ∧ n < 2 ^ addrW then .ok (codecCommand .enc c d len src n)
        else .error .operandTooWide) ∧
    assemble addrW (.codec .dec c) [.tBase d, .num len, .bBase src, .num n] =
      (if d < 2 ^ addrW ∧ len < 2 ^ addrW ∧ src < 2 ^ addrW ∧ n < 2 ^ addrW then .ok (codecCommand .dec c d len src n)
        else .error .operandTooWide)) ∧
  (∀ addrW d v : Nat, assemble addrW .tritnew [.tBase d, .num v] =
    (if d < 2 ^ addrW ∧ v < 2 ^ addrW then .ok (.tritnew d 0 0 v) else .error .operandTooWide)) ∧
  (∀ (addrW len n : Nat) (c : CodecName) (dst src : AsmOperand), ¬ ((∃ d, dst = .bBase d) ∧ ∃ a, src = .tBase a) →
    assemble addrW (.codec .enc c) [dst, .num len, src, .num n] = .error .operandForm ∧
    assemble addrW (.enc1 c) [dst, src] = .error .operandForm) ∧
  (∀ (addrW len n : Nat) (c : CodecName) (dst src : AsmOperand), ¬ ((∃ d, dst = .tBase d) ∧ ∃ a, src = .bBase a) →
    assemble addrW (.codec .dec c) [dst, .num len, src, .num n] = .error .operandForm ∧
    assemble addrW (.dec1 c) [dst, src] = .error .operandForm) ∧
  (∀ (addrW v : Nat) (dst : AsmOperand), (∀ d, dst ≠ .tBase d) →
    assemble addrW .tritnew [dst, .num v] = .error .operandForm ∧ assemble addrW .trit [dst, .num v] = .error .operandForm)

/-- Each pseudo-instruction expands to the one command of the table, with N = 5 for B3, B243 and DPT and 4 for BCT
(30_encoding R51), and is that command when its operands fit. N itself fits at every ADDR_W of 3 or more; at ADDR_W = 2 no N does, and
the expansion is refused as R50 says of such an operand. -/
def Obligations.PseudoInstructionsExpand : Prop :=
  (∀ (addrW d s : Nat) (c : CodecName), assemble addrW (.enc1 c) [.bBase d, .tBase s] =
      assemble addrW (.codec .enc c) [.bBase d, .num 1, .tBase s, .num (if c = .bct then 4 else 5)] ∧
    (3 ≤ addrW → d < 2 ^ addrW → s < 2 ^ addrW → assemble addrW (.enc1 c) [.bBase d, .tBase s] =
      .ok (codecCommand .enc c d 1 s (if c = .bct then 4 else 5)))) ∧
  (∀ (addrW d s : Nat) (c : CodecName), assemble addrW (.dec1 c) [.tBase d, .bBase s] =
      assemble addrW (.codec .dec c) [.tBase d, .num (if c = .bct then 4 else 5), .bBase s, .num 1] ∧
    (3 ≤ addrW → d < 2 ^ addrW → s < 2 ^ addrW → assemble addrW (.dec1 c) [.tBase d, .bBase s] =
      .ok (codecCommand .dec c d (if c = .bct then 4 else 5) s 1))) ∧
  (∀ (addrW d v : Nat), assemble addrW .trit [.tBase d, .num v] = assemble addrW .tritnew [.tBase d, .num v] ∧
    (d < 2 ^ addrW → v < 2 ^ addrW → assemble addrW .trit [.tBase d, .num v] = .ok (.tritnew d 0 0 v)))

/-! ## The step -/

/-- When the next descriptor of the stream decodes to a command, a step is that command's `exec` and nothing more
(00_scope R8, 10_state R21, R27). -/
def Obligations.StepRunsTheDecodedCommand : Prop :=
  ∀ (s : State) (w : Nat) (i : Instr),
    s.stream[s.cidx]? = some w → decode s.cfg.addrW w = .ok i → step s = exec i s

/-- A descriptor whose OP is outside the map gets STATUS = ILLEGAL and COUNT = 0, and nothing is read or written; the stream goes on
(30_encoding R49, 60_exceptions R120). -/
def Obligations.IllegalOpcodeIsAnsweredIllegal : Prop :=
  ∀ (s : State) (w : Nat), s.stream[s.cidx]? = some w → w < 2 ^ descriptorBits s.cfg.addrW → 0x11 ≤ w % 256 →
    step s = .next { s with
      trace := s.trace ++ [⟨⟨.illegal, 0⟩, some (.illegal .opcode)⟩], cidx := s.cidx + 1 }

/-- With no command left the run has ended and a step does nothing (10_state R21). That a step is then refused is the model's choice
(log entry 7). -/
def Obligations.NoCommandLeftIsRefused : Prop :=
  ∀ s : State, s.stream.length ≤ s.cidx → step s = .refused .endOfStream

/-- At the example width, the descriptor placed by `withFetchWord` is the one the next step runs, and nothing else of the state is
changed by placing it (the model's reading of a launch, log entry 7). -/
def Obligations.PlacedDescriptorRunsNext : Prop :=
  ∀ (s : State) (nbits w : Nat) (i : Instr), s.cfg.addrW = 16 → decodeTableWord nbits w = some i →
    step (s.withFetchWord nbits w) = exec i (s.withFetchWord nbits w) ∧
    s.withFetchWord nbits w = { s with stream := (s.withFetchWord nbits w).stream }

/-- Every command, in every state, ends by returning exactly one response and advances `cidx` by one; none of them traps, stops, or changes
the parameters or the stream (10_state R21, R28; 60_exceptions R117). That a command which reads an unwritten cell answers a next state
too is the model's reading of R121 (log entry 2). -/
def Obligations.EveryCommandReturnsOneResponse : Prop :=
  ∀ (i : Instr) (s : State), ∃ t c, exec i s = .next t ∧ t.trace = s.trace ++ [c] ∧
    t.cidx = s.cidx + 1 ∧ t.cfg = s.cfg ∧ t.stream = s.stream

/-- No command reads the record of earlier responses, the fault mark, the index or the stream: from two states that agree on the
parameters, T, B and the draws, a command leaves the same T, B and draws and returns the same response (10_state R18, R19, R20). That T
and B agree after a FAIL, and T, B and the response after the model fault, holds only because the two states share the draw counter: this
is the model's choice (log entries 4 and 2), not the spec's, which gives a fresh draw each time (20_memory R36). What holds whatever the
counters are is CommandsArePureFunctionsOfTAndB. -/
def Obligations.NothingOfACommandSurvivesInTheEngine : Prop :=
  ∀ (i : Instr) (s s' t t' : State), s'.cfg = s.cfg → s'.T = s.T → s'.B = s.B → s'.draws = s.draws →
    exec i s = .next t → exec i s' = .next t' →
    t'.T = t.T ∧ t'.B = t.B ∧ t'.draws = t.draws ∧ t'.trace.getLast? = t.trace.getLast?

/-- Issued on the same T and B, a command whose source is written gives the same response whatever the free draws are, and, unless it
fails, leaves the same T and B (20_memory R36). -/
def Obligations.CommandsArePureFunctionsOfTAndB : Prop :=
  ∀ (i : Instr) (s s' t t' : State) (c : Completion), s'.cfg = s.cfg → s'.T = s.T → s'.B = s.B → SourceWritten i s →
    exec i s = .next t → exec i s' = .next t' → t.trace = s.trace ++ [c] →
    t'.trace = s'.trace ++ [c] ∧ (c.response.status ≠ .fail → t'.T = t.T ∧ t'.B = t.B)

/-- From a state that meets the invariant, the remaining commands of the stream run to its end: no trap, no stop and no wait comes between,
and the run is then final unless a fault mark is set (10_state R21; 70_reset_and_hazards R136; 60_exceptions R117). That the run goes on
past a command that reads an unwritten cell is the model's reading (log entry 2). -/
def Obligations.RunsReachTheEndOfTheStream : Prop :=
  ∀ s : State, s.Inv → ∃ t : State, Host.Core.run Sys2Proof.core (s.stream.length - s.cidx) s = .next t ∧
    t.stream = s.stream ∧ t.cidx = s.stream.length ∧ (t.isFinal ∨ t.faultMark ≠ none)

/-! ## Sizes -/

/-- ENCSZ.c answers OK with COUNT the least number of chunks that holds `n` trits, reads and writes no cell, has no failure and no bounds
check; for an operand word it is at most ceil((2^ADDR_W - 1) / 4), below 2^ADDR_W (40_contract R57). -/
def Obligations.EncodedSizeIsTheCeiling : Prop :=
  ∀ (c : CodecName) (a0 a1 a2 n : Nat) (s : State), ∃ count,
    exec (codecCommand .encsz c a0 a1 a2 n) s = .next { s with
      trace := s.trace ++ [⟨⟨.ok, count⟩, none⟩], cidx := s.cidx + 1 } ∧
    n ≤ chunkSizeOf c * count ∧ chunkSizeOf c * count < n + chunkSizeOf c ∧
    (n < 2 ^ s.cfg.addrW → count ≤ (2 ^ s.cfg.addrW - 1 + 3) / 4 ∧ count < 2 ^ s.cfg.addrW)

/-- DECSZ.c answers OK with COUNT `m * N`, exact in COUNT_W bits, and reads and writes no cell (40_contract R58). -/
def Obligations.DecodedSizeIsTheProduct : Prop :=
  ∀ (c : CodecName) (a0 a1 a2 m : Nat) (s : State),
    exec (codecCommand .decsz c a0 a1 a2 m) s = .next { s with
      trace := s.trace ++ [⟨⟨.ok, m * chunkSizeOf c⟩, none⟩], cidx := s.cidx + 1 } ∧
    (m < 2 ^ s.cfg.addrW → m * chunkSizeOf c < 2 ^ (s.cfg.addrW + 3))

/-- The words a command ignores have no effect: A0, A1, A2 of a size command, A1 and A2 of TRITNEW (30_encoding R47). -/
def Obligations.IgnoredWordsHaveNoEffect : Prop :=
  (∀ (c : CodecName) (a0 a1 a2 n : Nat) (s : State),
    exec (codecCommand .encsz c a0 a1 a2 n) s = exec (codecCommand .encsz c 0 0 0 n) s ∧
    exec (codecCommand .decsz c a0 a1 a2 n) s = exec (codecCommand .decsz c 0 0 0 n) s) ∧
  (∀ (d a1 a2 v : Nat) (s : State), exec (.tritnew d a1 a2 v) s = exec (.tritnew d 0 0 v) s)

/-! ## Bounds and capacity -/

/-- The bounds check, with exact sums: a command with a region outside its space is ILLEGAL with COUNT 0 and writes nothing; a command whose
regions lie inside never ends so; a size command has no check (30_encoding R48). -/
def Obligations.BoundsAreCheckedExactly : Prop :=
  (∀ (c : CodecName) (d cap src n : Nat) (s : State),
    (¬ (src + n ≤ s.cfg.tSize ∧ d + cap ≤ s.cfg.bSize) →
      exec (codecCommand .enc c d cap src n) s = .next { s with
        trace := s.trace ++ [⟨⟨.illegal, 0⟩, some (.illegal .bounds)⟩], cidx := s.cidx + 1 }) ∧
    (src + n ≤ s.cfg.tSize ∧ d + cap ≤ s.cfg.bSize →
      (completionOf (exec (codecCommand .enc c d cap src n) s)).map (·.cause) ≠ some (some (.illegal .bounds)))) ∧
  (∀ (c : CodecName) (d k src m : Nat) (s : State),
    (¬ (d + k ≤ s.cfg.tSize ∧ src + m ≤ s.cfg.bSize) →
      exec (codecCommand .dec c d k src m) s = .next { s with
        trace := s.trace ++ [⟨⟨.illegal, 0⟩, some (.illegal .bounds)⟩], cidx := s.cidx + 1 }) ∧
    (d + k ≤ s.cfg.tSize ∧ src + m ≤ s.cfg.bSize →
      (completionOf (exec (codecCommand .dec c d k src m) s)).map (·.cause) ≠ some (some (.illegal .bounds)))) ∧
  (∀ (d a1 a2 v : Nat) (s : State),
    (¬ d < s.cfg.tSize →
      exec (.tritnew d a1 a2 v) s = .next { s with
        trace := s.trace ++ [⟨⟨.illegal, 0⟩, some (.illegal .bounds)⟩], cidx := s.cidx + 1 }) ∧
    (d < s.cfg.tSize →
      (completionOf (exec (.tritnew d a1 a2 v) s)).map (·.cause) ≠ some (some (.illegal .bounds)))) ∧
  (∀ (c : CodecName) (a0 a1 a2 n : Nat) (s : State),
    (completionOf (exec (codecCommand .encsz c a0 a1 a2 n) s)).map (·.cause) ≠ some (some (.illegal .bounds)) ∧
    (completionOf (exec (codecCommand .decsz c a0 a1 a2 n) s)).map (·.cause) ≠ some (some (.illegal .bounds)))

/-- ENC.c with a capacity below the encoded size fails before any source cell is read: STATUS = FAIL, COUNT = 0, each cell of the
destination keeps its state or is drawn, and everything else is unchanged but the draw counter (40_contract R59, R61;
60_exceptions R119, R122). -/
def Obligations.EncodeIntoTooFewBytesFails : Prop :=
  ∀ (c : CodecName) (d cap src n : Nat) (s : State),
    src + n ≤ s.cfg.tSize → d + cap ≤ s.cfg.bSize → chunkSizeOf c * cap < n →
    ∃ B', exec (codecCommand .enc c d cap src n) s = .next { s with
        B := B', draws := s.draws + cap
        trace := s.trace ++ [⟨⟨.fail, 0⟩, some (.fail .capacity)⟩], cidx := s.cidx + 1 } ∧
      SameOutside s.B B' d cap ∧ DrawnInside s.B B' d cap

/-- DEC.c for more trits than the source bytes hold fails before any source cell is read: STATUS = FAIL, COUNT = 0, each cell of the
destination keeps its state or is drawn, and everything else is unchanged but the draw counter (40_contract R60, R61;
60_exceptions R119, R122). -/
def Obligations.DecodeOfTooManyTritsFails : Prop :=
  ∀ (c : CodecName) (d k src m : Nat) (s : State),
    d + k ≤ s.cfg.tSize → src + m ≤ s.cfg.bSize → m * chunkSizeOf c < k →
    ∃ T', exec (codecCommand .dec c d k src m) s = .next { s with
        T := T', draws := s.draws + k
        trace := s.trace ++ [⟨⟨.fail, 0⟩, some (.fail .capacity)⟩], cidx := s.cidx + 1 } ∧
      SameOutside s.T T' d k ∧ DrawnInside s.T T' d k

/-! ## Encoding trits -/

/-- ENC.B3: byte `j` is the positional base-3 value of chunk `j`, trit 0 the lowest digit, the last chunk padded with zeros; the bytes past
COUNT, T and everything else are unchanged (41_base3 R69, R70; 40_contract R53, R54, R59). -/
def Obligations.EncB3WritesPositionalBytes : Prop :=
  ∀ (s : State) (d cap src n : Nat) (t : Nat → Trit),
    src + n ≤ s.cfg.tSize → d + cap ≤ s.cfg.bSize → n ≤ 5 * cap → RegionHolds s.T src n t →
    ∃ B' count, exec (.encB3 d cap src n) s = .next { s with
        B := B', trace := s.trace ++ [⟨⟨.ok, count⟩, none⟩], cidx := s.cidx + 1 } ∧
      n ≤ 5 * count ∧ 5 * count < n + 5 ∧ SameOutside s.B B' d count ∧
      ∀ j < count, ∃ y, cellRead B' (d + j) = some y ∧ y.toNat ≤ 242 ∧
        y.toNat = padded t n (5 * j) + 3 * padded t n (5 * j + 1) + 9 * padded t n (5 * j + 2) +
          27 * padded t n (5 * j + 3) + 81 * padded t n (5 * j + 4)

/-- ENC.B243: byte `j` is `floor((v * 256 + 242) / 243)` of the positional value `v` of chunk `j` (42_base243prediv R77; 40_contract R53,
R54, R59). -/
def Obligations.EncB243WritesRescaledBytes : Prop :=
  ∀ (s : State) (d cap src n : Nat) (t : Nat → Trit),
    src + n ≤ s.cfg.tSize → d + cap ≤ s.cfg.bSize → n ≤ 5 * cap → RegionHolds s.T src n t →
    ∃ B' count, exec (.encB243 d cap src n) s = .next { s with
        B := B', trace := s.trace ++ [⟨⟨.ok, count⟩, none⟩], cidx := s.cidx + 1 } ∧
      n ≤ 5 * count ∧ 5 * count < n + 5 ∧ SameOutside s.B B' d count ∧
      ∀ j < count, ∃ y v, cellRead B' (d + j) = some y ∧ y.toNat = (v * 256 + 242) / 243 ∧
        v = padded t n (5 * j) + 3 * padded t n (5 * j + 1) + 9 * padded t n (5 * j + 2) +
          27 * padded t n (5 * j + 3) + 81 * padded t n (5 * j + 4)

/-- ENC.BCT: byte `j` holds trit `i` of chunk `j` in bits [2i+1:2i], so it is at most 0xAA (43_bct R86, R87; 40_contract R53, R54, R59). -/
def Obligations.EncBctWritesTwoBitFields : Prop :=
  ∀ (s : State) (d cap src n : Nat) (t : Nat → Trit),
    src + n ≤ s.cfg.tSize → d + cap ≤ s.cfg.bSize → n ≤ 4 * cap → RegionHolds s.T src n t →
    ∃ B' count, exec (.encBct d cap src n) s = .next { s with
        B := B', trace := s.trace ++ [⟨⟨.ok, count⟩, none⟩], cidx := s.cidx + 1 } ∧
      n ≤ 4 * count ∧ 4 * count < n + 4 ∧ SameOutside s.B B' d count ∧
      ∀ j < count, ∃ y, cellRead B' (d + j) = some y ∧ y.toNat ≤ 0xAA ∧
        y.toNat = padded t n (4 * j) + 4 * padded t n (4 * j + 1) + 16 * padded t n (4 * j + 2) +
          64 * padded t n (4 * j + 3)

/-- ENC.DPT under the default table: the byte of the pair values `a`, `b` and the trailing trit of chunk `j`, by layout
(44_dpt R94, R99, R101, R102, R103, R107; 40_contract R53, R54, R59). It holds for the default instance of DPT_TABLE only. -/
def Obligations.EncDptWritesDefaultLayouts : Prop :=
  ∀ (s : State) (d cap src n : Nat) (t : Nat → Trit), s.cfg.dptTable = dptDefaultTable →
    src + n ≤ s.cfg.tSize → d + cap ≤ s.cfg.bSize → n ≤ 5 * cap → RegionHolds s.T src n t →
    ∃ B' count, exec (.encDpt d cap src n) s = .next { s with
        B := B', trace := s.trace ++ [⟨⟨.ok, count⟩, none⟩], cidx := s.cidx + 1 } ∧
      n ≤ 5 * count ∧ 5 * count < n + 5 ∧ SameOutside s.B B' d count ∧
      ∀ j < count, ∃ y a b x4, cellRead B' (d + j) = some y ∧
        a = padded t n (5 * j) + 3 * padded t n (5 * j + 1) ∧
        b = padded t n (5 * j + 2) + 3 * padded t n (5 * j + 3) ∧ x4 = padded t n (5 * j + 4) ∧
        y.toNat = if a ≤ 7 ∧ b ≤ 7 then a + 8 * (x4 % 2) + 16 * b + 128 * (x4 / 2)
          else if a ≤ 7 then 0x88 + 16 * x4 + a
          else if b ≤ 7 then 0xC8 + 16 * x4 + b
          else 0xF8 + x4

/-- ENC.DPT under any table: byte `j` is the table's byte for the positional value of chunk `j` (44_dpt R111; 00_scope R10; log entry 9
says how the table is held). -/
def Obligations.EncDptWritesTableBytes : Prop :=
  ∀ (s : State) (d cap src n : Nat) (t : Nat → Trit), DptTableOk s.cfg.dptTable →
    src + n ≤ s.cfg.tSize → d + cap ≤ s.cfg.bSize → n ≤ 5 * cap → RegionHolds s.T src n t →
    ∃ B' count, exec (.encDpt d cap src n) s = .next { s with
        B := B', trace := s.trace ++ [⟨⟨.ok, count⟩, none⟩], cidx := s.cidx + 1 } ∧
      n ≤ 5 * count ∧ 5 * count < n + 5 ∧ SameOutside s.B B' d count ∧
      ∀ j < count, ∃ v, v < 243 ∧ cellRead B' (d + j) = s.cfg.dptTable[v]? ∧
        v = padded t n (5 * j) + 3 * padded t n (5 * j + 1) + 9 * padded t n (5 * j + 2) +
          27 * padded t n (5 * j + 3) + 81 * padded t n (5 * j + 4)

/-! ## Decoding bytes -/

/-- DEC.B3: trit `i` is digit `i mod 5` of byte `i div 5` in base 3, `k` trits are written, and the trits past them are discarded
unchecked; T outside, B and everything else are unchanged (41_base3 R71, R72; 40_contract R53, R55, R60). -/
def Obligations.DecB3WritesBaseThreeDigits : Prop :=
  ∀ (s : State) (d k src m : Nat) (b : Nat → Byte),
    d + k ≤ s.cfg.tSize → src + m ≤ s.cfg.bSize → k ≤ 5 * m → RegionHolds s.B src (bytesRead s.cfg .b3 k m) b →
    (∀ j < bytesRead s.cfg .b3 k m, (b j).toNat ≤ 242) →
    ∃ T', exec (.decB3 d k src m) s = .next { s with
        T := T', trace := s.trace ++ [⟨⟨.ok, 0⟩, none⟩], cidx := s.cidx + 1 } ∧ SameOutside s.T T' d k ∧
      ∀ i < k, ∃ x, cellRead T' (d + i) = some x ∧ x.val = (b (i / 5)).toNat / 3 ^ (i % 5) % 3

/-- DEC.B243: trit `i` is digit `i mod 5` of `(243 * byte) div 256` in base 3, for every byte, those encoding never produces included
(42_base243prediv R79, R80, R81; 40_contract R60). -/
def Obligations.DecB243WritesRescaledDigits : Prop :=
  ∀ (s : State) (d k src m : Nat) (b : Nat → Byte),
    d + k ≤ s.cfg.tSize → src + m ≤ s.cfg.bSize → k ≤ 5 * m → RegionHolds s.B src (bytesRead s.cfg .b243 k m) b →
    ∃ T', exec (.decB243 d k src m) s = .next { s with
        T := T', trace := s.trace ++ [⟨⟨.ok, 0⟩, none⟩], cidx := s.cidx + 1 } ∧ SameOutside s.T T' d k ∧
      ∀ i < k, ∃ x, cellRead T' (d + i) = some x ∧
        x.val = 243 * (b (i / 5)).toNat / 256 / 3 ^ (i % 5) % 3

/-- DEC.BCT: trit `i` is the 2-bit field `i mod 4` of byte `i div 4`, when no byte read has a field 3 (43_bct R86, R88, R89;
40_contract R60). -/
def Obligations.DecBctWritesFields : Prop :=
  ∀ (s : State) (d k src m : Nat) (b : Nat → Byte),
    d + k ≤ s.cfg.tSize → src + m ≤ s.cfg.bSize → k ≤ 4 * m → RegionHolds s.B src (bytesRead s.cfg .bct k m) b →
    (∀ j < bytesRead s.cfg .bct k m, ∀ f < 4, (b j).toNat / 4 ^ f % 4 ≠ 3) →
    ∃ T', exec (.decBct d k src m) s = .next { s with
        T := T', trace := s.trace ++ [⟨⟨.ok, 0⟩, none⟩], cidx := s.cidx + 1 } ∧ SameOutside s.T T' d k ∧
      ∀ i < k, ∃ x, cellRead T' (d + i) = some x ∧ x.val = (b (i / 4)).toNat / 4 ^ (i % 4) % 4

/-- DEC.DPT under the default table: the trits are those the bits of the byte give, bits 7 and 3 first, when every byte read is valid by its
bits (44_dpt R105, R108, R109; 40_contract R60). It holds for the default instance of DPT_TABLE only. -/
def Obligations.DecDptReadsDefaultLayouts : Prop :=
  ∀ (s : State) (d k src m : Nat) (b : Nat → Byte), s.cfg.dptTable = dptDefaultTable →
    d + k ≤ s.cfg.tSize → src + m ≤ s.cfg.bSize → k ≤ 5 * m → RegionHolds s.B src (bytesRead s.cfg .dpt k m) b →
    (∀ j < bytesRead s.cfg .dpt k m, dptDefaultValid (b j) = true) →
    ∃ T', exec (.decDpt d k src m) s = .next { s with
        T := T', trace := s.trace ++ [⟨⟨.ok, 0⟩, none⟩], cidx := s.cidx + 1 } ∧ SameOutside s.T T' d k ∧
      ∀ i < k, cellRead T' (d + i) = (dptDefaultDecode (b (i / 5)))[i % 5]?

/-- DEC.DPT under any table: a byte the table holds at index `v` decodes to the base-3 digits of `v`, so decoding is the inverse of the
table on its image (44_dpt R111; 40_contract R60; log entry 9 says how the table is held). -/
def Obligations.DecDptInvertsTheTable : Prop :=
  ∀ (s : State) (d k src m : Nat) (v : Nat → Nat), DptTableOk s.cfg.dptTable →
    d + k ≤ s.cfg.tSize → src + m ≤ s.cfg.bSize → k ≤ 5 * m → (∀ j < bytesRead s.cfg .dpt k m, v j < 243) →
    RegionHolds s.B src (bytesRead s.cfg .dpt k m) (fun j => tableByte s.cfg.dptTable (v j)) →
    ∃ T', exec (.decDpt d k src m) s = .next { s with
        T := T', trace := s.trace ++ [⟨⟨.ok, 0⟩, none⟩], cidx := s.cidx + 1 } ∧ SameOutside s.T T' d k ∧
      ∀ i < k, ∃ x, cellRead T' (d + i) = some x ∧ x.val = v (i / 5) / 3 ^ (i % 5) % 3

/-- DEC.c with an invalid codepoint among the bytes it reads fails, wherever that byte stands: STATUS = FAIL, COUNT = 0, each cell of the
destination keeps its state or is drawn, and everything else is unchanged but the draw counter (40_contract R60, R61;
60_exceptions R119). -/
def Obligations.DecodeOfInvalidByteFails : Prop :=
  ∀ (c : CodecName) (d k src m : Nat) (s : State) (b : Nat → Byte) (bad : Nat),
    d + k ≤ s.cfg.tSize → src + m ≤ s.cfg.bSize → k ≤ m * chunkSizeOf c →
    RegionHolds s.B src (bytesRead s.cfg c k m) b → bad < bytesRead s.cfg c k m → InvalidCodepoint s.cfg c (b bad) →
    ∃ T', exec (codecCommand .dec c d k src m) s = .next { s with
        T := T', draws := s.draws + k
        trace := s.trace ++ [⟨⟨.fail, 0⟩, some (.fail .invalidCodepoint)⟩], cidx := s.cidx + 1 } ∧
      SameOutside s.T T' d k ∧ DrawnInside s.T T' d k

/-- DEC.B243 never fails on a codepoint: every byte is valid (42_base243prediv R80). -/
def Obligations.DecB243HasNoInvalidCodepoint : Prop :=
  ∀ (d k src m : Nat) (s t : State) (c : Completion), exec (.decB243 d k src m) s = .next t → t.trace = s.trace ++ [c] →
    c.cause ≠ some (.fail .invalidCodepoint)

/-- With VALIDATE_ALL_SOURCE false, the bytes past the `ceil(k / N)` consumed ones do not matter: neither their values nor whether they are
written (40_contract R60, 92 D9). The two states share the draw counter, so T agrees also after a FAIL, and T and the response also after the
model fault: that part is the model's choice (log entries 4 and 2), since the spec gives a fresh draw each time (20_memory R36,
40_contract R61). -/
def Obligations.UnconsumedBytesDoNotMatter : Prop :=
  ∀ (c : CodecName) (d k src m count : Nat) (s t t' : State) (B' : Space Byte), s.cfg.validateAllSource = false →
    k ≤ chunkSizeOf c * count → chunkSizeOf c * count < k + chunkSizeOf c →
    (∀ j < count, cellRead B' (src + j) = cellRead s.B (src + j)) →
    exec (codecCommand .dec c d k src m) s = .next t →
    exec (codecCommand .dec c d k src m) { s with B := B' } = .next t' →
    t'.T = t.T ∧ t'.trace = t.trace ∧ t'.faultMark = t.faultMark

/-! ## Trit construction -/

/-- TRITNEW: outside T it is ILLEGAL; for every value of 3 or more it FAILs and writes nothing; otherwise it writes the trit to T[d], leaves
every other cell alone and answers OK with COUNT 0; A1 and A2 are ignored and OP is 0x10 (40_contract R63). -/
def Obligations.TritnewChecksItsRange : Prop :=
  ∀ (d a1 a2 v : Nat) (s : State), (Instr.tritnew d a1 a2 v).opcode = 0x10 ∧
    (s.cfg.tSize ≤ d → exec (.tritnew d a1 a2 v) s = .next { s with
      trace := s.trace ++ [⟨⟨.illegal, 0⟩, some (.illegal .bounds)⟩], cidx := s.cidx + 1 }) ∧
    (d < s.cfg.tSize → 3 ≤ v → exec (.tritnew d a1 a2 v) s = .next { s with
      trace := s.trace ++ [⟨⟨.fail, 0⟩, some (.fail .invalidTrit)⟩], cidx := s.cidx + 1 }) ∧
    (d < s.cfg.tSize → v < 3 → ∃ T', exec (.tritnew d a1 a2 v) s = .next { s with
        T := T', trace := s.trace ++ [⟨⟨.ok, 0⟩, none⟩], cidx := s.cidx + 1 } ∧
      SameOutside s.T T' d 1 ∧ ∃ x, cellRead T' d = some x ∧ x.val = v)

/-! ## Failures, faults and frames -/

/-- No command that fails, or is illegal, writes outside its destination region; ILLEGAL writes nothing at all; each destination cell of a
failed command keeps its state or is drawn (40_contract R61, R63; 60_exceptions R118, R120). -/
def Obligations.FailuresKeepEverythingOutsideTheDestination : Prop :=
  ∀ (i : Instr) (s t : State) (r : Response),
    exec i s = .next t →
    (∀ why, t.trace = s.trace ++ [⟨r, some (.fail why)⟩] → r = ⟨.fail, 0⟩ ∧ t.faultMark = s.faultMark ∧
      SameOutside s.T t.T (destinationT i).1 (destinationT i).2 ∧
      SameOutside s.B t.B (destinationB i).1 (destinationB i).2 ∧
      DrawnInside s.T t.T (destinationT i).1 (destinationT i).2 ∧
      DrawnInside s.B t.B (destinationB i).1 (destinationB i).2) ∧
    (∀ why, t.trace = s.trace ++ [⟨r, some (.illegal why)⟩] → r = ⟨.illegal, 0⟩ ∧
      t = { s with trace := t.trace, cidx := t.cidx })

/-- The frame of every command whose source the host has written: no cell outside its destination region changes, in T or in B, and the fault
mark does not change; a size command has no destination and changes no cell (20_memory R34; 40_contract R62; 70 R135). -/
def Obligations.CommandsKeepEverythingOutsideTheDestination : Prop :=
  ∀ (i : Instr) (s t : State), SourceWritten i s → exec i s = .next t →
    t.cfg = s.cfg ∧ t.stream = s.stream ∧ t.faultMark = s.faultMark ∧
    SameOutside s.T t.T (destinationT i).1 (destinationT i).2 ∧
    SameOutside s.B t.B (destinationB i).1 (destinationB i).2

/-- A command never makes a written cell unwritten (10_state R25); a failed one writes each destination cell or leaves it (40_contract R61).
That the cells stay written after the model fault too is the model's reading (log entry 2): 60_exceptions R121 leaves those writes
undefined. -/
def Obligations.WrittenCellsStayWritten : Prop :=
  ∀ (i : Instr) (s t : State) (a : Nat), exec i s = .next t →
    (cellRead s.T a ≠ none → cellRead t.T a ≠ none) ∧ (cellRead s.B a ≠ none → cellRead t.B a ≠ none)

/-- ENC.c that passes its checks and reads an unwritten trit sets the fault mark with its index and the address, unless a mark is set already
(60_exceptions R121, R122). That the address is the lowest unwritten one is the model's reading (log entry 3), and that the command still
answers a next state with everything else free is log entry 2. -/
def Obligations.EncodeOfUnwrittenTritsSetsTheMark : Prop :=
  ∀ (c : CodecName) (d cap src n j : Nat) (s : State),
    src + n ≤ s.cfg.tSize → d + cap ≤ s.cfg.bSize → n ≤ chunkSizeOf c * cap →
    j < n → cellRead s.T (src + j) = none → (∀ i < j, cellRead s.T (src + i) ≠ none) →
    ∃ t, exec (codecCommand .enc c d cap src n) s = .next t ∧ t.cidx = s.cidx + 1 ∧
      t.faultMark = some (s.faultMark.getD (.uninitRead .T s.cidx (src + j)))

/-- DEC.c that passes its checks and reads an unwritten byte sets the fault mark, whatever the other bytes are: the model fault comes before an
invalid codepoint (60_exceptions R121, R122; log entries 2 and 3 as for ENC.c). -/
def Obligations.DecodeOfUnwrittenBytesSetsTheMark : Prop :=
  ∀ (c : CodecName) (d k src m j : Nat) (s : State),
    d + k ≤ s.cfg.tSize → src + m ≤ s.cfg.bSize → k ≤ m * chunkSizeOf c →
    j < bytesRead s.cfg c k m → cellRead s.B (src + j) = none → (∀ i < j, cellRead s.B (src + i) ≠ none) →
    ∃ t, exec (codecCommand .dec c d k src m) s = .next t ∧ t.cidx = s.cidx + 1 ∧
      t.faultMark = some (s.faultMark.getD (.uninitRead .B s.cidx (src + j)))

/-- The first fault a command raises sets the mark and no later step clears or changes it; a step sets it only for its own index
(60_exceptions R121). -/
def Obligations.TheFirstFaultStays : Prop :=
  ∀ (s t : State), step s = .next t →
    (∀ f, s.faultMark = some f → t.faultMark = some f) ∧
    (s.faultMark = none → t.faultMark = none ∨ ∃ sp a, t.faultMark = some (.uninitRead sp s.cidx a))

/-- A response has STATUS 0, 1 or 2; COUNT is 0 with every STATUS other than OK and for every DEC and TRITNEW, and it fits in COUNT_W =
ADDR_W + 3 bits (10_state R28). It is said of commands whose source is written: the response is undefined otherwise. -/
def Obligations.ResponsesKeepTheirFormat : Prop :=
  ∀ (i : Instr) (s t : State) (c : Completion), i.WellFormed s.cfg.addrW → SourceWritten i s →
    exec i s = .next t → t.trace = s.trace ++ [c] →
    c.response.status.code ≠ 3 ∧ c.response.count < 2 ^ (s.cfg.addrW + 3) ∧
    (c.response.status ≠ .ok → c.response.count = 0) ∧
    ((∃ cd a0 a1 a2 a3, i = codecCommand .dec cd a0 a1 a2 a3) ∨ (∃ a0 a1 a2 a3, i = .tritnew a0 a1 a2 a3) →
      c.response.count = 0)

/-! ## Laws of the codecs -/

/-- The law between the three functions of every codec, DPT under any legal table: the encoder gives only valid codepoints, and decoding an
encoded chunk gives the chunk back; each is total, decoding every valid byte to `N` trits (40_contract R56). -/
def Obligations.ChunksRoundTrip : Prop :=
  ∀ (cfg : Config) (c : CodecName) (x : Chunk), DptTableOk cfg.dptTable →
    (codecOf cfg c).valid ((codecOf cfg c).encodeChunk x) = true ∧
    (codecOf cfg c).decodeChunk ((codecOf cfg c).encodeChunk x) = (List.range (chunkSizeOf c)).map x ∧
    ∀ y : Byte, (codecOf cfg c).valid y = true → ((codecOf cfg c).decodeChunk y).length = chunkSizeOf c

/-- A whole-sequence round trip: what an ENC.c that answers OK wrote, the DEC.c of COUNT bytes for as many trits decodes to the same trits
(40_contract R68). The source trits are written, as R135 asks of the host. -/
def Obligations.SequencesRoundTrip : Prop :=
  ∀ (c : CodecName) (d cap src n d2 size : Nat) (s t : State), DptTableOk s.cfg.dptTable →
    SourceWritten (codecCommand .enc c d cap src n) s → exec (codecCommand .enc c d cap src n) s = .next t →
    t.trace = s.trace ++ [⟨⟨.ok, size⟩, none⟩] → d2 + n ≤ s.cfg.tSize →
    ∃ T', exec (codecCommand .dec c d2 n d size) t = .next { t with
        T := T', trace := t.trace ++ [⟨⟨.ok, 0⟩, none⟩], cidx := t.cidx + 1 } ∧
      SameOutside t.T T' d2 n ∧ ∀ i < n, cellRead T' (d2 + i) = cellRead s.T (src + i)

/-- The Base243PreDiv encoder is strictly increasing in the chunk value, the bytes it never produces are exactly thirteen, and each of them
is one more than the encoding of the value it decodes to (42_base243prediv R78, R81; the spec marks the list as derived by exhaustive
evaluation). -/
def Obligations.Base243ImageLacksThirteenBytes : Prop :=
  (∀ v < 242, (base243Encode (chunkOfVal v)).toNat < (base243Encode (chunkOfVal (v + 1))).toNat) ∧
  (∀ y : Byte, (∀ v < 243, base243Encode (chunkOfVal v) ≠ y) ↔
    y ∈ [0x01#8, 0x14#8, 0x28#8, 0x3C#8, 0x4F#8, 0x63#8, 0x77#8, 0x8A#8, 0x9E#8, 0xB2#8, 0xC5#8, 0xD9#8, 0xED#8]) ∧
  (∀ y : Byte, (∀ v < 243, base243Encode (chunkOfVal v) ≠ y) →
    (base243Encode (chunkOfVal (val3 fun i => (base243Decode y).getD i 0))).toNat + 1 = y.toNat)

/-- Exactly 81 bytes are BCT codepoints, and the default DPT table leaves exactly the bytes 0xB8 to 0xBF and 0xFB to 0xFF invalid, as the bits
say (43_bct R88, 44_dpt R104, R108). -/
def Obligations.InvalidBytesAreAsCounted : Prop :=
  ((List.range 256).filter fun y => bctValid (BitVec.ofNat 8 y)).length = 81 ∧
  (∀ y : Byte, y ∉ dptDefaultTable ↔ (0xB8 ≤ y.toNat ∧ y.toNat ≤ 0xBF) ∨ 0xFB ≤ y.toNat) ∧
  (∀ y : Byte, dptDefaultValid y = true ↔ y ∈ dptDefaultTable)

/-! ## Reset, the host and the invariant -/

/-- After power-on every cell of T and B is unwritten, `cidx` is 0 and no fault mark is set; an engine reset sets nothing, T and B included; a
launch sets `cidx` to 0 and clears the mark and leaves T and B alone (70_reset_and_hazards R133). That an engine reset leaves the
host-side index and record as they are too is the model's choice (log entry 17). -/
def Obligations.ResetLeavesWhatTheSpecSays : Prop :=
  (∀ a, cellRead State.reset.T a = none ∧ cellRead State.reset.B a = none) ∧
  State.reset.cidx = 0 ∧ State.reset.faultMark = none ∧
  (∀ s : State, engineReset s = s) ∧
  (∀ (p : List Nat) (s : State), (launch p s).cidx = 0 ∧ (launch p s).faultMark = none ∧ (launch p s).stream = p ∧
    (launch p s).T = s.T ∧ (launch p s).B = s.B)

/-- The host writes any cell of T or B with a value of its type, which makes exactly that cell written; a cell outside the space does not
exist (10_state R26, 20_memory R37). That the host's access to such an address answers a fault is the model's choice (log entry 10). -/
def Obligations.HostWritesReachExactlyOneCell : Prop :=
  (∀ (a : Nat) (v : Trit) (s : State),
    (a < s.cfg.tSize → ∃ T', hostWriteT a v s = .next { s with T := T' } ∧ cellRead T' a = some v ∧ SameOutside s.T T' a 1 ∧
      hostReadT a { s with T := T' } = .ok (some v)) ∧
    (s.cfg.tSize ≤ a → hostWriteT a v s = .fault (.noSuchCell .T a))) ∧
  (∀ (a : Nat) (v : Byte) (s : State),
    (a < s.cfg.bSize → ∃ B', hostWriteB a v s = .next { s with B := B' } ∧ cellRead B' a = some v ∧ SameOutside s.B B' a 1 ∧
      hostReadB a { s with B := B' } = .ok (some v)) ∧
    (s.cfg.bSize ≤ a → hostWriteB a v s = .fault (.noSuchCell .B a)))

/-- A reset during a command leaves each cell of the command's destination region as after FAIL, with its state kept or some value written,
touches no cell outside it and returns no response (70_reset_and_hazards R134).
The operation stands beside the step and leaves the mark alone by the model's choice (log entry 11). -/
def Obligations.ResetDuringACommandStaysInItsDestination : Prop :=
  ∀ (i : Instr) (s : State),
    (resetDuring i s).trace = s.trace ∧ (resetDuring i s).faultMark = s.faultMark ∧ (resetDuring i s).cfg = s.cfg ∧
    SameOutside s.T (resetDuring i s).T (destinationT i).1 (destinationT i).2 ∧
    SameOutside s.B (resetDuring i s).B (destinationB i).1 (destinationB i).2 ∧
    DrawnInside s.T (resetDuring i s).T (destinationT i).1 (destinationT i).2 ∧
    DrawnInside s.B (resetDuring i s).B (destinationB i).1 (destinationB i).2

/-- The invariant holds after power-on, at the example parameters (log entry 1), and after the launch of a stream of descriptors (log
entry 7). -/
def Obligations.InvariantHoldsAtResetAndLaunch : Prop :=
  State.reset.Inv ∧
  ∀ (p : List Nat) (s : State), s.Inv → (∀ w ∈ p, w < 2 ^ descriptorBits s.cfg.addrW) → (launch p s).Inv

/-- Every step keeps the invariant: canonical memory inside its space, one response per command, COUNT in its width and 0 unless OK, a fault
mark that names an earlier command and a cell of its space. -/
def Obligations.StepsKeepTheInvariant : Prop :=
  ∀ s t : State, s.Inv → step s = .next t → t.Inv

/-- What the host does between commands keeps the invariant: a write to a cell of T or of B (10_state R26). -/
def Obligations.HostWritesKeepTheInvariant : Prop :=
  (∀ (a : Nat) (v : Trit) (s t : State), s.Inv → hostWriteT a v s = .next t → t.Inv) ∧
  (∀ (a : Nat) (v : Byte) (s t : State), s.Inv → hostWriteB a v s = .next t → t.Inv)
end

