-- ==== Sys2Proof/Laws/Assembler.lean ====
section
/-! SUPPORT. What the assembler can answer, said once. -/

namespace Sys2Proof.Machine

/-- The operand words of a codec command are its arguments. -/
@[simp] theorem codecCommand_words (f : Func) (c : CodecName) (a0 a1 a2 a3 : Nat) :
    (codecCommand f c a0 a1 a2 a3).words = (a0, a1, a2, a3) := by cases f <;> cases c <;> rfl

/-- The assembler answers a command exactly when the operands have the mnemonic's form and that command is well-formed. -/
theorem assemble_ok_iff (addrW : Nat) (m : Mnemonic) (ops : List AsmOperand) (i : Instr) :
    assemble addrW m ops = .ok i ↔ asmForm m ops = some i ∧ i.WellFormed addrW := by
  unfold assemble
  cases asmForm m ops with
  | none => simp
  | some j =>
    by_cases h : j.WellFormed addrW
    · simp only [if_pos h, Except.ok.injEq, Option.some.injEq]
      exact ⟨fun e => ⟨e, e ▸ h⟩, And.left⟩
    · simp only [if_neg h, Option.some.injEq, reduceCtorEq, false_iff]
      rintro ⟨rfl, h'⟩
      exact h h'

/-- Operands of the mnemonic's form assemble to its command when the words of that command fit, and are too wide otherwise. -/
theorem assemble_of_form {m : Mnemonic} {ops : List AsmOperand} {i : Instr} (addrW : Nat) (h : asmForm m ops = some i) :
    assemble addrW m ops = if i.WellFormed addrW then .ok i else .error .operandTooWide := by simp [assemble, h]

/-- The same for a codec command, word by word. -/
theorem assemble_codecCommand {m : Mnemonic} {ops : List AsmOperand} {f : Func} {c : CodecName} {a0 a1 a2 a3 : Nat} (addrW : Nat)
    (h : asmForm m ops = some (codecCommand f c a0 a1 a2 a3)) :
    assemble addrW m ops =
      if a0 < 2 ^ addrW ∧ a1 < 2 ^ addrW ∧ a2 < 2 ^ addrW ∧ a3 < 2 ^ addrW then .ok (codecCommand f c a0 a1 a2 a3)
      else .error .operandTooWide := by
  simp [assemble_of_form addrW h, Instr.WellFormed]

/-- Operands of no form are refused as such. -/
theorem assemble_operandForm {m : Mnemonic} {ops : List AsmOperand} (addrW : Nat) (h : asmForm m ops = none) :
    assemble addrW m ops = .error .operandForm := by simp [assemble, h]

end Sys2Proof.Machine
end

