-- ==== Sys2Proof/Laws/DptTable.lean ====
section
/-! SUPPORT. The default instance of DPT_TABLE has every property an instance must have, and the example parameters are legal
(44_dpt R110, R111; 00_scope R9). -/

namespace Sys2Proof.Machine

theorem dptDefaultTable_length : dptDefaultTable.length = 243 := by simp [dptDefaultTable]

theorem dptDefaultTable_nodup : dptDefaultTable.Nodup := by decide +kernel

theorem dptDefaultTable_smallFields : ∀ v < 243, SmallPairs (chunkOfVal v) →
    (tableByte dptDefaultTable v).toNat % 8 = pairA (chunkOfVal v) ∧
    (tableByte dptDefaultTable v).toNat / 16 % 8 = pairB (chunkOfVal v) := by decide +kernel

/-- Bits 3 and 7 are both set in exactly the bytes with a large pair: the escape codes (44_dpt R100). -/
theorem dptDefaultTable_escape : ∀ v < 243, SmallPairs (chunkOfVal v) ↔
    ¬ ((tableByte dptDefaultTable v).getLsbD 3 = true ∧ (tableByte dptDefaultTable v).getLsbD 7 = true) := by
  decide +kernel

theorem dptDefaultTable_ok : DptTableOk dptDefaultTable where
  total := dptDefaultTable_length
  injective := dptDefaultTable_nodup
  smallFields := dptDefaultTable_smallFields
  indicators := fun v hv w hw hs hl ⟨e3, e7⟩ =>
    hl ((dptDefaultTable_escape w hw).mpr fun hb =>
      (dptDefaultTable_escape v hv).mp hs ⟨e3.trans hb.1, e7.trans hb.2⟩)

theorem exampleConfig_ok : ConfigOk exampleConfig where
  addrW := by decide
  tSizePos := by decide
  tSizeMax := by decide
  bSizePos := by decide
  bSizeMax := by decide
  dptTable := dptDefaultTable_ok

end Sys2Proof.Machine
end

