-- ==== Sys2Proof/Laws/HostPort.lean ====
section
/-! SUPPORT. What a reset during a command can do, said once. -/

namespace Sys2Proof.Machine

/-- A reset during a command leaves the state alone, or clobbers the command's destination region in B, or the one in T. -/
theorem resetDuring_cases (i : Instr) (s : State) :
    resetDuring i s = s ∨ resetDuring i s = clobberB (destinationB i).1 (destinationB i).2 s ∨
      resetDuring i s = clobberT (destinationT i).1 (destinationT i).2 s := by
  cases i <;> first
    | exact .inl rfl
    | exact (ite_eq_or_eq _ _ _).elim (fun h => .inr (.inl h)) .inl
    | exact (ite_eq_or_eq _ _ _).elim (fun h => .inr (.inr h)) .inl

end Sys2Proof.Machine
end

