-- ==== Sys2Proof/Laws/Memory.lean ====
section
/-! SUPPORT. The laws of cells and regions: a read after a write, what a region operation leaves alone, and that every operation keeps
the canonical form and stays inside the space. -/

namespace Sys2Proof.Machine

variable {α : Type}

/-! ## One cell -/

@[simp] theorem cellRead_nil (a : Nat) : cellRead ([] : Space α) a = none := rfl

theorem cellRead_cellWrite_same (m : Space α) (a : Nat) (v : α) : cellRead (cellWrite m a v) a = some v := by
  induction m with
  | nil => simp [cellWrite, cellRead]
  | cons p m ih =>
    unfold cellWrite
    split_ifs with h1 h2
    · simp [cellRead]
    · simp [cellRead]
    · simp [cellRead, h2, ih]

theorem cellRead_cellWrite_other (m : Space α) {a b : Nat} (v : α) (h : b ≠ a) :
    cellRead (cellWrite m a v) b = cellRead m b := by
  induction m with
  | nil => simp [cellWrite, cellRead, h]
  | cons p m ih =>
    unfold cellWrite
    split_ifs with h1 h2
    · simp [cellRead, h]
    · subst h2; simp [cellRead, h]
    · simp [cellRead, ih]

theorem cellRead_cellWrite (m : Space α) (a b : Nat) (v : α) :
    cellRead (cellWrite m a v) b = if b = a then some v else cellRead m b := by
  split_ifs with h
  · rw [h, cellRead_cellWrite_same]
  · exact cellRead_cellWrite_other m v h

theorem cellRead_cellClobber_other (m : Space α) {a b : Nat} (d : Option α) (h : b ≠ a) :
    cellRead (cellClobber m a d) b = cellRead m b := by
  cases d with
  | none => rfl
  | some v => exact cellRead_cellWrite_other m v h

theorem cellRead_cellClobber_same (m : Space α) (a : Nat) (d : Option α) :
    cellRead (cellClobber m a d) a = (d <|> cellRead m a) := by
  cases d with
  | none => rfl
  | some v => exact cellRead_cellWrite_same m a v

/-! ## Regions -/

theorem regionWrite_outside (vs : List α) : ∀ (m : Space α) (a b : Nat), ¬ (a ≤ b ∧ b < a + vs.length) →
    cellRead (regionWrite m a vs) b = cellRead m b := by
  induction vs with
  | nil => intros; rfl
  | cons v vs ih =>
    intro m a b h
    simp only [List.length_cons] at h
    rw [regionWrite, ih _ _ _ (by omega), cellRead_cellWrite_other _ _ (by omega)]

theorem regionWrite_inside (vs : List α) : ∀ (m : Space α) (a i : Nat), i < vs.length →
    cellRead (regionWrite m a vs) (a + i) = vs[i]? := by
  induction vs with
  | nil => intro m a i h; simp at h
  | cons v vs ih =>
    intro m a i h
    cases i with
    | zero =>
      rw [regionWrite, regionWrite_outside _ _ _ _ (by omega), Nat.add_zero, cellRead_cellWrite_same]; rfl
    | succ i =>
      simp only [List.length_cons] at h
      have e : a + (i + 1) = a + 1 + i := by omega
      rw [regionWrite, e, ih _ _ _ (by omega), List.getElem?_cons_succ]

theorem regionClobber_outside (draw : Nat → Option α) (n : Nat) : ∀ (m : Space α) (a k b : Nat),
    ¬ (a ≤ b ∧ b < a + n) → cellRead (regionClobber draw m a k n) b = cellRead m b := by
  induction n with
  | zero => intros; rfl
  | succ n ih =>
    intro m a k b h
    rw [regionClobber, ih _ _ _ _ (by omega), cellRead_cellClobber_other _ _ (by omega)]

/-- Cell `a + i` of a clobbered region takes draw `k + i`, or keeps its state where the draw says so. -/
theorem regionClobber_inside (draw : Nat → Option α) (n : Nat) : ∀ (m : Space α) (a k i : Nat), i < n →
    cellRead (regionClobber draw m a k n) (a + i) = (draw (k + i) <|> cellRead m (a + i)) := by
  induction n with
  | zero => intro m a k i h; omega
  | succ n ih =>
    intro m a k i h
    cases i with
    | zero =>
      rw [regionClobber, regionClobber_outside _ _ _ _ _ _ (by omega), Nat.add_zero, Nat.add_zero,
        cellRead_cellClobber_same]
    | succ i =>
      have e : a + (i + 1) = a + 1 + i := by omega
      have e' : k + (i + 1) = k + 1 + i := by omega
      rw [regionClobber, e, e', ih _ _ _ _ (by omega), cellRead_cellClobber_other _ _ (by omega)]

/-- What reading a region answers: the values of its cells, all written, or its lowest unwritten cell. -/
theorem regionRead_cases (m : Space α) (n : Nat) : ∀ a : Nat,
    (∃ vs, regionRead m a n = .ok vs ∧ vs.length = n ∧ ∀ i < n, cellRead m (a + i) = vs[i]?) ∨
    (∃ j < n, regionRead m a n = .error (a + j) ∧ cellRead m (a + j) = none ∧
      ∀ i < j, cellRead m (a + i) ≠ none) := by
  induction n with
  | zero => intro a; exact .inl ⟨[], rfl, rfl, by omega⟩
  | succ n ih =>
    intro a
    cases h : cellRead m a with
    | none => exact .inr ⟨0, by omega, by simp [regionRead, h], h, by omega⟩
    | some v =>
      obtain ⟨vs, hr, hl, hv⟩ | ⟨j, hj, hr, hn, hw⟩ := ih (a + 1)
      · refine .inl ⟨v :: vs, by simp [regionRead, h, hr], by simp [hl], fun i hi => ?_⟩
        cases i with
        | zero => simpa using h
        | succ i =>
          have e : a + (i + 1) = a + 1 + i := by omega
          rw [e, hv i (by omega), List.getElem?_cons_succ]
      · have e : a + (j + 1) = a + 1 + j := by omega
        refine .inr ⟨j + 1, by omega, by simp [regionRead, h, hr, e], by rw [e, hn], fun i hi => ?_⟩
        cases i with
        | zero => simp [h]
        | succ i =>
          have e' : a + (i + 1) = a + 1 + i := by omega
          rw [e']; exact hw i (by omega)

/-- Reading a region whose cells all hold values answers those values. -/
theorem regionRead_of_written (m : Space α) (a n : Nat) (f : Nat → α) (h : ∀ i < n, cellRead m (a + i) = some (f i)) :
    regionRead m a n = .ok ((List.range n).map f) := by
  obtain ⟨vs, hr, hl, hv⟩ | ⟨j, hj, -, hn, -⟩ := regionRead_cases m n a
  · rw [hr]
    congr 1
    apply List.ext_getElem?
    intro i
    by_cases hi : i < n
    · rw [← hv i hi, h i hi]; simp [hi]
    · rw [List.getElem?_eq_none (by omega), List.getElem?_eq_none (by simp; omega)]
  · rw [h j hj] at hn; cases hn

/-! ## The canonical form -/

theorem mem_cellWrite {m : Space α} {a : Nat} {v : α} {p : Nat × α} (h : p ∈ cellWrite m a v) : p = (a, v) ∨ p ∈ m := by
  induction m with
  | nil => simpa [cellWrite] using h
  | cons q m ih =>
    unfold cellWrite at h
    split_ifs at h with h1 h2
    · simpa using h
    · simp only [List.mem_cons] at h ⊢; tauto
    · simp only [List.mem_cons] at h ⊢
      rcases h with h | h
      · exact .inr (.inl h)
      · rcases ih h with h | h
        · exact .inl h
        · exact .inr (.inr h)

theorem cellWrite_wf {m : Space α} (h : Memory.wf m) (a : Nat) (v : α) : Memory.wf (cellWrite m a v) := by
  induction m with
  | nil => simp [cellWrite, Memory.wf]
  | cons q m ih =>
    have hm := List.pairwise_cons.mp h
    unfold cellWrite
    split_ifs with h1 h2
    · refine List.pairwise_cons.mpr ⟨fun p hp => ?_, h⟩
      rcases List.mem_cons.mp hp with rfl | hp
      · exact h1
      · exact Nat.lt_trans h1 (hm.1 p hp)
    · exact List.pairwise_cons.mpr ⟨fun p hp => by rw [h2]; exact hm.1 p hp, hm.2⟩
    · refine List.pairwise_cons.mpr ⟨fun p hp => ?_, ih hm.2⟩
      rcases mem_cellWrite hp with rfl | hp
      · show q.1 < a
        omega
      · exact hm.1 p hp

theorem cellWrite_inside {m : Space α} {size a : Nat} (h : Memory.inside size m) (ha : a < size) (v : α) :
    Memory.inside size (cellWrite m a v) := by
  intro p hp
  rcases mem_cellWrite hp with rfl | hp
  · exact ha
  · exact h p hp

theorem cellClobber_wf {m : Space α} (h : Memory.wf m) (a : Nat) (d : Option α) : Memory.wf (cellClobber m a d) := by
  cases d with
  | none => exact h
  | some v => exact cellWrite_wf h a v

theorem cellClobber_inside {m : Space α} {size a : Nat} (h : Memory.inside size m) (ha : a < size) (d : Option α) :
    Memory.inside size (cellClobber m a d) := by
  cases d with
  | none => exact h
  | some v => exact cellWrite_inside h ha v

theorem regionWrite_wf (vs : List α) : ∀ {m : Space α}, Memory.wf m → ∀ a, Memory.wf (regionWrite m a vs) := by
  induction vs with
  | nil => intro m h a; exact h
  | cons v vs ih => intro m h a; exact ih (cellWrite_wf h a v) (a + 1)

theorem regionWrite_inside_space (vs : List α) : ∀ {m : Space α} {size a : Nat}, Memory.inside size m →
    a + vs.length ≤ size → Memory.inside size (regionWrite m a vs) := by
  induction vs with
  | nil => intro m size a h _; exact h
  | cons v vs ih =>
    intro m size a h ha
    simp only [List.length_cons] at ha
    exact ih (cellWrite_inside h (by omega) v) (by omega)

theorem regionClobber_wf (draw : Nat → Option α) (n : Nat) : ∀ {m : Space α}, Memory.wf m → ∀ a k,
    Memory.wf (regionClobber draw m a k n) := by
  induction n with
  | zero => intro m h a k; exact h
  | succ n ih => intro m h a k; exact ih (cellClobber_wf h a (draw k)) (a + 1) (k + 1)

theorem regionClobber_inside_space (draw : Nat → Option α) (n : Nat) : ∀ {m : Space α} {size a : Nat}, Memory.inside size m →
    a + n ≤ size → ∀ k, Memory.inside size (regionClobber draw m a k n) := by
  induction n with
  | zero => intro m size a h _ k; exact h
  | succ n ih =>
    intro m size a h ha k
    exact ih (cellClobber_inside h (by omega) (draw k)) (by omega) (k + 1)

end Sys2Proof.Machine
end

