-- ==== Sys2Proof/Laws/Operands.lean ====
section
/-! SUPPORT. The laws of the operand forms. -/

namespace Sys2Proof.Machine

/-- `ceilDiv` is the least count of groups of `n` that holds `a` (00_scope R11). -/
theorem ceilDiv_bounds (a n : Nat) (hn : 0 < n) : a ≤ n * ceilDiv a n ∧ n * ceilDiv a n < a + n := by
  unfold ceilDiv
  have h1 := Nat.div_add_mod (a + n - 1) n
  have h2 := Nat.mod_lt (a + n - 1) hn
  omega

theorem ceilDiv_le_iff (a n c : Nat) (hn : 0 < n) : ceilDiv a n ≤ c ↔ a ≤ n * c := by
  obtain ⟨h1, h2⟩ := ceilDiv_bounds a n hn
  constructor
  · intro h
    exact h1.trans (Nat.mul_le_mul_left n h)
  · intro h
    by_contra hc
    have : n * (c + 1) ≤ n * ceilDiv a n := Nat.mul_le_mul_left n (by omega)
    rw [Nat.mul_add] at this
    omega

@[simp] theorem encInBounds_iff (c : Config) (d cap src n : Nat) :
    encInBounds c d cap src n = true ↔ src + n ≤ c.tSize ∧ d + cap ≤ c.bSize := by
  simp [encInBounds]

@[simp] theorem decInBounds_iff (c : Config) (d k src m : Nat) :
    decInBounds c d k src m = true ↔ d + k ≤ c.tSize ∧ src + m ≤ c.bSize := by
  simp [decInBounds]

@[simp] theorem tritnewInBounds_iff (c : Config) (d : Nat) : tritnewInBounds c d = true ↔ d < c.tSize := by
  simp [tritnewInBounds]

end Sys2Proof.Machine
end

