-- ==== Sys2Proof/Laws/State.lean ====
section
/-! SUPPORT. One lemma per field per update of the state, so that no later proof unfolds a record update. -/

namespace Sys2Proof.Machine

section
variable (r : Response) (c : Option Cause) (s : State)

@[simp] theorem finish_cfg : (finish r c s).cfg = s.cfg := rfl
@[simp] theorem finish_T : (finish r c s).T = s.T := rfl
@[simp] theorem finish_B : (finish r c s).B = s.B := rfl
@[simp] theorem finish_stream : (finish r c s).stream = s.stream := rfl
@[simp] theorem finish_cidx : (finish r c s).cidx = s.cidx + 1 := rfl
@[simp] theorem finish_faultMark : (finish r c s).faultMark = s.faultMark := rfl
@[simp] theorem finish_trace : (finish r c s).trace = s.trace ++ [⟨r, c⟩] := rfl
@[simp] theorem finish_draws : (finish r c s).draws = s.draws := rfl

end

section
variable (a n : Nat) (s : State)

@[simp] theorem clobberT_cfg : (clobberT a n s).cfg = s.cfg := rfl
@[simp] theorem clobberT_T : (clobberT a n s).T = regionClobber Config.clobberedTrit s.T a s.draws n := rfl
@[simp] theorem clobberT_B : (clobberT a n s).B = s.B := rfl
@[simp] theorem clobberT_stream : (clobberT a n s).stream = s.stream := rfl
@[simp] theorem clobberT_cidx : (clobberT a n s).cidx = s.cidx := rfl
@[simp] theorem clobberT_faultMark : (clobberT a n s).faultMark = s.faultMark := rfl
@[simp] theorem clobberT_trace : (clobberT a n s).trace = s.trace := rfl
@[simp] theorem clobberT_draws : (clobberT a n s).draws = s.draws + n := rfl

end

section
variable (a n : Nat) (s : State)

@[simp] theorem clobberB_cfg : (clobberB a n s).cfg = s.cfg := rfl
@[simp] theorem clobberB_T : (clobberB a n s).T = s.T := rfl
@[simp] theorem clobberB_B : (clobberB a n s).B = regionClobber Config.clobberedByte s.B a s.draws n := rfl
@[simp] theorem clobberB_stream : (clobberB a n s).stream = s.stream := rfl
@[simp] theorem clobberB_cidx : (clobberB a n s).cidx = s.cidx := rfl
@[simp] theorem clobberB_faultMark : (clobberB a n s).faultMark = s.faultMark := rfl
@[simp] theorem clobberB_trace : (clobberB a n s).trace = s.trace := rfl
@[simp] theorem clobberB_draws : (clobberB a n s).draws = s.draws + n := rfl

end

section
variable (a : Nat) (vs : List Byte) (s : State)

@[simp] theorem storeBytes_cfg : (storeBytes a vs s).cfg = s.cfg := rfl
@[simp] theorem storeBytes_T : (storeBytes a vs s).T = s.T := rfl
@[simp] theorem storeBytes_B : (storeBytes a vs s).B = regionWrite s.B a vs := rfl
@[simp] theorem storeBytes_stream : (storeBytes a vs s).stream = s.stream := rfl
@[simp] theorem storeBytes_cidx : (storeBytes a vs s).cidx = s.cidx := rfl
@[simp] theorem storeBytes_faultMark : (storeBytes a vs s).faultMark = s.faultMark := rfl
@[simp] theorem storeBytes_trace : (storeBytes a vs s).trace = s.trace := rfl
@[simp] theorem storeBytes_draws : (storeBytes a vs s).draws = s.draws := rfl

end

section
variable (a : Nat) (vs : List Trit) (s : State)

@[simp] theorem storeTrits_cfg : (storeTrits a vs s).cfg = s.cfg := rfl
@[simp] theorem storeTrits_T : (storeTrits a vs s).T = regionWrite s.T a vs := rfl
@[simp] theorem storeTrits_B : (storeTrits a vs s).B = s.B := rfl
@[simp] theorem storeTrits_stream : (storeTrits a vs s).stream = s.stream := rfl
@[simp] theorem storeTrits_cidx : (storeTrits a vs s).cidx = s.cidx := rfl
@[simp] theorem storeTrits_faultMark : (storeTrits a vs s).faultMark = s.faultMark := rfl
@[simp] theorem storeTrits_trace : (storeTrits a vs s).trace = s.trace := rfl
@[simp] theorem storeTrits_draws : (storeTrits a vs s).draws = s.draws := rfl

end

section
variable (p : List Nat) (s : State)

@[simp] theorem launch_cfg : (launch p s).cfg = s.cfg := rfl
@[simp] theorem launch_T : (launch p s).T = s.T := rfl
@[simp] theorem launch_B : (launch p s).B = s.B := rfl
@[simp] theorem launch_stream : (launch p s).stream = p := rfl
@[simp] theorem launch_cidx : (launch p s).cidx = 0 := rfl
@[simp] theorem launch_faultMark : (launch p s).faultMark = none := rfl
@[simp] theorem launch_trace : (launch p s).trace = [] := rfl
@[simp] theorem launch_draws : (launch p s).draws = s.draws := rfl

end

section
variable (s : State) (nbits w : Nat)

@[simp] theorem withFetchWord_cfg : (s.withFetchWord nbits w).cfg = s.cfg := rfl
@[simp] theorem withFetchWord_T : (s.withFetchWord nbits w).T = s.T := rfl
@[simp] theorem withFetchWord_B : (s.withFetchWord nbits w).B = s.B := rfl
@[simp] theorem withFetchWord_stream : (s.withFetchWord nbits w).stream = placeAt s.stream s.cidx (w % 2 ^ nbits) := rfl
@[simp] theorem withFetchWord_cidx : (s.withFetchWord nbits w).cidx = s.cidx := rfl
@[simp] theorem withFetchWord_faultMark : (s.withFetchWord nbits w).faultMark = s.faultMark := rfl
@[simp] theorem withFetchWord_trace : (s.withFetchWord nbits w).trace = s.trace := rfl
@[simp] theorem withFetchWord_draws : (s.withFetchWord nbits w).draws = s.draws := rfl

end

end Sys2Proof.Machine
end

