-- ==== Sys2Proof/Laws/Ops.lean ====
section
/-! SUPPORT. What each shared operation can do, said once: ENC.c, DEC.c, TRITNEW, and a step. Later proofs cite these lemmas and do
not unfold the operations. -/

namespace Sys2Proof.Machine

/-- The state `raiseUninit` leaves. -/
theorem raiseUninit_eq (sp : SpaceName) (a : Nat) (s : State) :
    raiseUninit sp a s = .next { s with
      T := regionClobber Config.clobberedTrit s.T 0 s.draws s.cfg.tSize
      B := regionClobber Config.clobberedByte s.B 0 (s.draws + s.cfg.tSize) s.cfg.bSize
      draws := s.draws + s.cfg.tSize + s.cfg.bSize + 1
      faultMark := some (s.faultMark.getD (.uninitRead sp s.cidx a))
      trace := s.trace ++ [⟨freeResponse s.cfg (s.draws + s.cfg.tSize + s.cfg.bSize), none⟩]
      cidx := s.cidx + 1 } := rfl

/-- The four ways an ENC.c can end (40_contract R59, in the order of 60_exceptions R122). -/
theorem encodeSlice_cases (c : Codec) (d cap src n : Nat) (s : State) :
    (¬ (src + n ≤ s.cfg.tSize ∧ d + cap ≤ s.cfg.bSize) ∧ encodeSlice c d cap src n s = raiseIllegal .bounds s) ∨
    ((src + n ≤ s.cfg.tSize ∧ d + cap ≤ s.cfg.bSize) ∧ cap < ceilDiv n c.chunkN ∧
      encodeSlice c d cap src n s = raiseFail .capacity (clobberB d cap s)) ∨
    ((src + n ≤ s.cfg.tSize ∧ d + cap ≤ s.cfg.bSize) ∧ ceilDiv n c.chunkN ≤ cap ∧
      ∃ j < n, cellRead s.T (src + j) = none ∧ (∀ i < j, cellRead s.T (src + i) ≠ none) ∧
        encodeSlice c d cap src n s = raiseUninit .T (src + j) s) ∨
    ((src + n ≤ s.cfg.tSize ∧ d + cap ≤ s.cfg.bSize) ∧ ceilDiv n c.chunkN ≤ cap ∧
      ∃ t : List Trit, t.length = n ∧ (∀ i < n, cellRead s.T (src + i) = t[i]?) ∧
        encodeSlice c d cap src n s = respondOk (ceilDiv n c.chunkN) (storeBytes d (encodeTrits c t) s)) := by
  unfold encodeSlice
  by_cases hb : src + n ≤ s.cfg.tSize ∧ d + cap ≤ s.cfg.bSize
  · rw [if_pos ((encInBounds_iff ..).mpr hb)]
    by_cases hc : cap < ceilDiv n c.chunkN
    · exact .inr (.inl ⟨hb, hc, if_pos hc⟩)
    · rw [if_neg hc]
      obtain ⟨t, hr, hl, hv⟩ | ⟨j, hj, hr, hn, hw⟩ := regionRead_cases s.T n src
      · exact .inr (.inr (.inr ⟨hb, by omega, t, hl, hv, by rw [hr]⟩))
      · exact .inr (.inr (.inl ⟨hb, by omega, j, hj, hn, hw, by rw [hr]⟩))
  · exact .inl ⟨hb, if_neg (by rw [encInBounds_iff]; exact hb)⟩

/-- The five ways a DEC.c can end (40_contract R60, in the order of 60_exceptions R122). -/
theorem decodeSlice_cases (c : Codec) (d k src m : Nat) (s : State) :
    (¬ (d + k ≤ s.cfg.tSize ∧ src + m ≤ s.cfg.bSize) ∧ decodeSlice c d k src m s = raiseIllegal .bounds s) ∨
    ((d + k ≤ s.cfg.tSize ∧ src + m ≤ s.cfg.bSize) ∧ m * c.chunkN < k ∧
      decodeSlice c d k src m s = raiseFail .capacity (clobberT d k s)) ∨
    ((d + k ≤ s.cfg.tSize ∧ src + m ≤ s.cfg.bSize) ∧ k ≤ m * c.chunkN ∧
      ∃ j < decReadCount s.cfg c.chunkN k m, cellRead s.B (src + j) = none ∧ (∀ i < j, cellRead s.B (src + i) ≠ none) ∧
        decodeSlice c d k src m s = raiseUninit .B (src + j) s) ∨
    ((d + k ≤ s.cfg.tSize ∧ src + m ≤ s.cfg.bSize) ∧ k ≤ m * c.chunkN ∧
      ∃ b : List Byte, b.length = decReadCount s.cfg c.chunkN k m ∧
        (∀ i < decReadCount s.cfg c.chunkN k m, cellRead s.B (src + i) = b[i]?) ∧ b.all c.valid = false ∧
        decodeSlice c d k src m s = raiseFail .invalidCodepoint (clobberT d k s)) ∨
    ((d + k ≤ s.cfg.tSize ∧ src + m ≤ s.cfg.bSize) ∧ k ≤ m * c.chunkN ∧
      ∃ b : List Byte, b.length = decReadCount s.cfg c.chunkN k m ∧
        (∀ i < decReadCount s.cfg c.chunkN k m, cellRead s.B (src + i) = b[i]?) ∧ b.all c.valid = true ∧
        decodeSlice c d k src m s =
          respondOk 0 (storeTrits d ((decodeBytes c (b.take (ceilDiv k c.chunkN))).take k) s)) := by
  unfold decodeSlice
  by_cases hb : d + k ≤ s.cfg.tSize ∧ src + m ≤ s.cfg.bSize
  · rw [if_pos ((decInBounds_iff ..).mpr hb)]
    by_cases hc : m * c.chunkN < k
    · exact .inr (.inl ⟨hb, hc, if_pos hc⟩)
    · rw [if_neg hc]
      obtain ⟨b, hr, hl, hv⟩ | ⟨j, hj, hr, hn, hw⟩ := regionRead_cases s.B (decReadCount s.cfg c.chunkN k m) src
      · cases ha : b.all c.valid with
        | true => exact .inr (.inr (.inr (.inr ⟨hb, by omega, b, hl, hv, ha, by simp [hr, ha]⟩)))
        | false => exact .inr (.inr (.inr (.inl ⟨hb, by omega, b, hl, hv, ha, by simp [hr, ha]⟩)))
      · exact .inr (.inr (.inl ⟨hb, by omega, j, hj, hn, hw, by rw [hr]⟩))
  · exact .inl ⟨hb, if_neg (by rw [decInBounds_iff]; exact hb)⟩

/-- The three ways TRITNEW can end (40_contract R63). -/
theorem execTritnew_cases (d a1 a2 v : Nat) (s : State) :
    (s.cfg.tSize ≤ d ∧ execTritnew d a1 a2 v s = raiseIllegal .bounds s) ∨
    (d < s.cfg.tSize ∧ 3 ≤ v ∧ execTritnew d a1 a2 v s = raiseFail .invalidTrit s) ∨
    (d < s.cfg.tSize ∧ v < 3 ∧ execTritnew d a1 a2 v s = respondOk 0 (storeTrits d [tritOf v] s)) := by
  unfold execTritnew
  by_cases hd : d < s.cfg.tSize
  · rw [if_pos ((tritnewInBounds_iff ..).mpr hd)]
    by_cases hv : 3 ≤ v
    · exact .inr (.inl ⟨hd, hv, if_pos hv⟩)
    · exact .inr (.inr ⟨hd, by omega, if_neg hv⟩)
  · exact .inl ⟨by omega, if_neg (by rw [tritnewInBounds_iff]; exact hd)⟩

/-- What a step that answers a next state did: it ran the decoded command, or answered an illegal opcode. -/
theorem step_next_cases {s t : State} (h : step s = .next t) :
    ∃ w, s.stream[s.cidx]? = some w ∧
      ((∃ i, decode s.cfg.addrW w = .ok i ∧ exec i s = .next t) ∨
       (∃ op, decode s.cfg.addrW w = .error (.illegalOpcode op) ∧ t = finish ⟨.illegal, 0⟩ (some (.illegal .opcode)) s)) := by
  unfold step nextDescriptor at h
  cases hw : s.stream[s.cidx]? with
  | none => simp [hw] at h
  | some w =>
    refine ⟨w, rfl, ?_⟩
    simp only [hw] at h
    cases hd : decode s.cfg.addrW w with
    | ok i => exact .inl ⟨i, rfl, by simpa [hd] using h⟩
    | error e =>
      cases e with
      | illegalOpcode op =>
        simp only [hd, rejectDescriptor, raiseIllegal, Host.Outcome.next.injEq] at h
        exact .inr ⟨op, rfl, h.symm⟩
      | notADescriptor => simp [hd, rejectDescriptor] at h

end Sys2Proof.Machine
end

