-- ==== Sys2Proof/Laws/PerInstr.lean ====
section
/-! SUPPORT. What holds of every command as syntax, one lemma per constructor: the fields of its descriptor decode back to it
(30_encoding R46, R47). -/

namespace Sys2Proof.Laws.FieldRoundTrip

/-- The OP of the command fits in 8 bits, is in the opcode map, and with the command's words decodes to the command. -/
def Statement (i : Instr) : Prop :=
  i.opcode ≤ 0x10 ∧ decodeFields i.opcode i.words.1 i.words.2.1 i.words.2.2.1 i.words.2.2.2 = .ok i

theorem encszB3 (a0 a1 a2 a3 : Nat) : Statement (.encszB3 a0 a1 a2 a3) :=
  ⟨by simp [Instr.opcode], by
    simp [decodeFields, Instr.opcode, Instr.words, codecCommand, funcOfNumber, codecOfNumber, bitField]⟩

theorem encszB243 (a0 a1 a2 a3 : Nat) : Statement (.encszB243 a0 a1 a2 a3) :=
  ⟨by simp [Instr.opcode], by
    simp [decodeFields, Instr.opcode, Instr.words, codecCommand, funcOfNumber, codecOfNumber, bitField]⟩

theorem encszBct (a0 a1 a2 a3 : Nat) : Statement (.encszBct a0 a1 a2 a3) :=
  ⟨by simp [Instr.opcode], by
    simp [decodeFields, Instr.opcode, Instr.words, codecCommand, funcOfNumber, codecOfNumber, bitField]⟩

theorem encszDpt (a0 a1 a2 a3 : Nat) : Statement (.encszDpt a0 a1 a2 a3) :=
  ⟨by simp [Instr.opcode], by
    simp [decodeFields, Instr.opcode, Instr.words, codecCommand, funcOfNumber, codecOfNumber, bitField]⟩

theorem encB3 (a0 a1 a2 a3 : Nat) : Statement (.encB3 a0 a1 a2 a3) :=
  ⟨by simp [Instr.opcode], by
    simp [decodeFields, Instr.opcode, Instr.words, codecCommand, funcOfNumber, codecOfNumber, bitField]⟩

theorem encB243 (a0 a1 a2 a3 : Nat) : Statement (.encB243 a0 a1 a2 a3) :=
  ⟨by simp [Instr.opcode], by
    simp [decodeFields, Instr.opcode, Instr.words, codecCommand, funcOfNumber, codecOfNumber, bitField]⟩

theorem encBct (a0 a1 a2 a3 : Nat) : Statement (.encBct a0 a1 a2 a3) :=
  ⟨by simp [Instr.opcode], by
    simp [decodeFields, Instr.opcode, Instr.words, codecCommand, funcOfNumber, codecOfNumber, bitField]⟩

theorem encDpt (a0 a1 a2 a3 : Nat) : Statement (.encDpt a0 a1 a2 a3) :=
  ⟨by simp [Instr.opcode], by
    simp [decodeFields, Instr.opcode, Instr.words, codecCommand, funcOfNumber, codecOfNumber, bitField]⟩

theorem decszB3 (a0 a1 a2 a3 : Nat) : Statement (.decszB3 a0 a1 a2 a3) :=
  ⟨by simp [Instr.opcode], by
    simp [decodeFields, Instr.opcode, Instr.words, codecCommand, funcOfNumber, codecOfNumber, bitField]⟩

theorem decszB243 (a0 a1 a2 a3 : Nat) : Statement (.decszB243 a0 a1 a2 a3) :=
  ⟨by simp [Instr.opcode], by
    simp [decodeFields, Instr.opcode, Instr.words, codecCommand, funcOfNumber, codecOfNumber, bitField]⟩

theorem decszBct (a0 a1 a2 a3 : Nat) : Statement (.decszBct a0 a1 a2 a3) :=
  ⟨by simp [Instr.opcode], by
    simp [decodeFields, Instr.opcode, Instr.words, codecCommand, funcOfNumber, codecOfNumber, bitField]⟩

theorem decszDpt (a0 a1 a2 a3 : Nat) : Statement (.decszDpt a0 a1 a2 a3) :=
  ⟨by simp [Instr.opcode], by
    simp [decodeFields, Instr.opcode, Instr.words, codecCommand, funcOfNumber, codecOfNumber, bitField]⟩

theorem decB3 (a0 a1 a2 a3 : Nat) : Statement (.decB3 a0 a1 a2 a3) :=
  ⟨by simp [Instr.opcode], by
    simp [decodeFields, Instr.opcode, Instr.words, codecCommand, funcOfNumber, codecOfNumber, bitField]⟩

theorem decB243 (a0 a1 a2 a3 : Nat) : Statement (.decB243 a0 a1 a2 a3) :=
  ⟨by simp [Instr.opcode], by
    simp [decodeFields, Instr.opcode, Instr.words, codecCommand, funcOfNumber, codecOfNumber, bitField]⟩

theorem decBct (a0 a1 a2 a3 : Nat) : Statement (.decBct a0 a1 a2 a3) :=
  ⟨by simp [Instr.opcode], by
    simp [decodeFields, Instr.opcode, Instr.words, codecCommand, funcOfNumber, codecOfNumber, bitField]⟩

theorem decDpt (a0 a1 a2 a3 : Nat) : Statement (.decDpt a0 a1 a2 a3) :=
  ⟨by simp [Instr.opcode], by
    simp [decodeFields, Instr.opcode, Instr.words, codecCommand, funcOfNumber, codecOfNumber, bitField]⟩

theorem tritnew (a0 a1 a2 a3 : Nat) : Statement (.tritnew a0 a1 a2 a3) :=
  ⟨by simp [Instr.opcode], by
    simp [decodeFields, Instr.opcode, Instr.words]⟩

end Sys2Proof.Laws.FieldRoundTrip
end

