-- ==== Sys2Proof/Tests/Slice0.lean ====
section
/-! SUPPORT. The model's own tests: well-formedness, decoding, one step on small states, and a witness for the hypotheses of every
statement. Expected values are those of 95_test_vectors unless a comment says otherwise. -/

namespace Sys2Proof.Tests

open Sys2Proof Sys2Proof.Machine

/-- The power-on state with some cells written and a stream launched. -/
def start (t : Space Trit) (b : Space Byte) (p : List Nat) : State := { State.reset with T := t, B := b, stream := p }

/-- The same, with VALIDATE_ALL_SOURCE false. -/
def startLazy (t : Space Trit) (b : Space Byte) : State :=
  { State.reset with T := t, B := b, cfg := { exampleConfig with validateAllSource := false } }

/-- The nine-trit sequence of the source's scenarios, at address `a` of T (95_test_vectors L1 S7). -/
def nine (a : Nat) : Space Trit :=
  [(a, 0), (a + 1, 2), (a + 2, 1), (a + 3, 1), (a + 4, 0), (a + 5, 1), (a + 6, 0), (a + 7, 2), (a + 8, 2)]

/-- The same sequence as a function of the index. -/
def nineTrit (i : Nat) : Trit := ([0, 2, 1, 1, 0, 1, 0, 2, 2] : List Trit).getD i 0

def tAfter : Answer → Option (Space Trit)
  | .next s => some s.T
  | _ => none

def bAfter : Answer → Option (Space Byte)
  | .next s => some s.B
  | _ => none

def markAfter : Answer → Option (Option ModelFault)
  | .next s => some s.faultMark
  | _ => none

def responseAfter (a : Answer) : Option Response := (completionOf a).map Completion.response

/-! ## Well-formedness: an ill-formed term for each check -/

theorem test_wf_top_operands : (Instr.encB3 0xFFFF 0xFFFF 0xFFFF 0xFFFF).WellFormed 16 := by decide
theorem test_wf_a0_too_wide : ¬ (Instr.encB3 0x10000 0 0 0).WellFormed 16 := by decide
theorem test_wf_a1_too_wide : ¬ (Instr.decDpt 0 0x10000 0 0).WellFormed 16 := by decide
theorem test_wf_a2_too_wide : ¬ (Instr.encszBct 0 0 0x10000 0).WellFormed 16 := by decide
theorem test_wf_a3_too_wide : ¬ (Instr.tritnew 0 0 0 4).WellFormed 2 := by decide

theorem test_config_addrW_too_small : ¬ ConfigOk { exampleConfig with addrW := 1 } := fun h => absurd h.addrW (by decide)
theorem test_config_no_trit_cell : ¬ ConfigOk { exampleConfig with tSize := 0 } := fun h => absurd h.tSizePos (by decide)
theorem test_config_too_many_trit_cells : ¬ ConfigOk { exampleConfig with tSize := 65537 } := fun h => absurd h.tSizeMax (by decide)
theorem test_config_no_byte_cell : ¬ ConfigOk { exampleConfig with bSize := 0 } := fun h => absurd h.bSizePos (by decide)
theorem test_config_too_many_byte_cells : ¬ ConfigOk { exampleConfig with bSize := 65537 } := fun h => absurd h.bSizeMax (by decide)
theorem test_table_of_wrong_length : ¬ DptTableOk [] := fun h => absurd h.total (by decide)
theorem test_table_not_injective : ¬ DptTableOk (List.replicate 243 0) := fun h => absurd h.injective (by decide +kernel)
/-- The bytes in another order break the small/small fields. -/
theorem test_table_without_small_fields : ¬ DptTableOk dptDefaultTable.reverse := fun h =>
  absurd (h.smallFields 0 (by decide) (by decide)).1 (by decide +kernel)
/-- Putting the code 0x88 of the large pair b = 8, x4 = 0, a = 0 where 0x7F is still leaves bit 3 and 7 as in the escape codes. -/
theorem test_table_with_confused_indicators : ¬ DptTableOk (dptDefaultTable.set 72 0xB0) := fun h =>
  absurd (h.indicators 162 (by decide) 72 (by decide) (by decide) (by decide)) (by decide +kernel)

/-! ## Decoding: one word per command, written out from the fields of 30_encoding R44 -/

theorem test_decode_encszB3 : decode 16 0x000600000000000000 = .ok (.encszB3 0 0 0 6) := by rfl
theorem test_decode_encszB243 : decode 16 0x000900000000000001 = .ok (.encszB243 0 0 0 9) := by rfl
theorem test_decode_encszBct : decode 16 0x0005FFFFFFFFFFFF02 = .ok (.encszBct 0xFFFF 0xFFFF 0xFFFF 5) := by rfl
theorem test_decode_encszDpt : decode 16 0x000700000000000003 = .ok (.encszDpt 0 0 0 7) := by rfl
theorem test_decode_encB3 : decode 16 0x00050000000200FF04 = .ok (.encB3 0xFF 2 0 5) := by rfl
theorem test_decode_encB243 : decode 16 0x000A00200002000A05 = .ok (.encB243 0x0A 2 0x20 0x0A) := by rfl
theorem test_decode_encBct : decode 16 0x000900000003001006 = .ok (.encBct 0x10 3 0 9) := by rfl
theorem test_decode_encDpt : decode 16 0x000900000002001007 = .ok (.encDpt 0x10 2 0 9) := by rfl
theorem test_decode_decszB3 : decode 16 0xFFFF00000000000008 = .ok (.decszB3 0 0 0 0xFFFF) := by rfl
theorem test_decode_decszB243 : decode 16 0x000300000000000009 = .ok (.decszB243 0 0 0 3) := by rfl
theorem test_decode_decszBct : decode 16 0x00030000000000000A = .ok (.decszBct 0 0 0 3) := by rfl
theorem test_decode_decszDpt : decode 16 0x00020000000000000B = .ok (.decszDpt 0 0 0 2) := by rfl
theorem test_decode_decB3 : decode 16 0x000100FF000500FE0C = .ok (.decB3 0xFE 5 0xFF 1) := by rfl
theorem test_decode_decB243 : decode 16 0x00020008000A00200D = .ok (.decB243 0x20 0x0A 8 2) := by rfl
theorem test_decode_decBct : decode 16 0x00030000000900100E = .ok (.decBct 0x10 9 0 3) := by rfl
theorem test_decode_decDpt : decode 16 0x00040010000700280F = .ok (.decDpt 0x28 7 0x10 4) := by rfl
theorem test_decode_tritnew : decode 16 0x000200000000000110 = .ok (.tritnew 1 0 0 2) := by rfl

/-- OP 0000_0111 is CLASS 0, FUNC 01, CODEC 11: ENC.DPT (R45). At ADDR_W = 2 the words are the next four pairs of bits. -/
theorem test_decode_bits_at_width_2 : decode 2 0b11_10_01_00_00000111 = .ok (.encDpt 0 1 2 3) := by rfl
theorem test_encode_listing : encode 16 (.encDpt 0x10 2 0 9) = 0x000900000002001007 := by rfl
theorem test_decode_illegal_11 : decode 16 0x11 = .error (.illegalOpcode 0x11) := by rfl
theorem test_decode_illegal_ff : decode 16 0xFFFFFFFFFFFFFFFFFF = .error (.illegalOpcode 0xFF) := by rfl
theorem test_decode_too_wide : decode 16 0x1000000000000000000 = .error .notADescriptor := by rfl
theorem test_table_word : decodeTableWord 8 0x10 = some (.tritnew 0 0 0 0) := by rfl
theorem test_step_from_reset :
    responseAfter (step (State.reset.withFetchWord 8 0x07)) = some ⟨.ok, 0⟩ := by decide

/-- 30_encoding R50: the listing of `ENC.DPT B[16], 2, T[0], 9`. -/
theorem test_listing : listing 16 (.encDpt 16 2 0 9) = "07 0010 0002 0000 0009".toList := by decide
theorem test_assemble_enc :
    (assemble 16 (.codec .enc .dpt) [.bBase 16, .num 2, .tBase 0, .num 9]).toOption = some (.encDpt 16 2 0 9) := by decide
theorem test_assemble_wrong_space :
    (assemble 16 (.codec .enc .dpt) [.tBase 16, .num 2, .tBase 0, .num 9]).toOption = none := by decide
theorem test_assemble_too_wide : (assemble 16 .tritnew [.tBase 0, .num 65536]).toOption = none := by decide

/-! ## Size commands (95_test_vectors L2.1) -/

theorem test_encszB3_6 : responseAfter (exec (.encszB3 0 0 0 6) State.reset) = some ⟨.ok, 2⟩ := by decide
theorem test_encszB3_65535 : responseAfter (exec (.encszB3 0 0 0 65535) State.reset) = some ⟨.ok, 13107⟩ := by decide
theorem test_encszB243_11 : responseAfter (exec (.encszB243 0 0 0 11) State.reset) = some ⟨.ok, 3⟩ := by decide
theorem test_encszBct_5 : responseAfter (exec (.encszBct 0xFFFF 0xFFFF 0xFFFF 5) State.reset) = some ⟨.ok, 2⟩ := by decide
theorem test_encszBct_65535 : responseAfter (exec (.encszBct 0 0 0 65535) State.reset) = some ⟨.ok, 16384⟩ := by decide
theorem test_encszDpt_10 : responseAfter (exec (.encszDpt 0 0 0 10) State.reset) = some ⟨.ok, 2⟩ := by decide
theorem test_decszB3_0 : responseAfter (exec (.decszB3 0 0 0 0) State.reset) = some ⟨.ok, 0⟩ := by decide
theorem test_decszB243_3 : responseAfter (exec (.decszB243 0 0 0 3) State.reset) = some ⟨.ok, 15⟩ := by decide
theorem test_decszBct_65535 : responseAfter (exec (.decszBct 0 0 0 65535) State.reset) = some ⟨.ok, 262140⟩ := by decide
theorem test_decszDpt_65535 : responseAfter (exec (.decszDpt 0 0 0 65535) State.reset) = some ⟨.ok, 327675⟩ := by decide

/-! ## ENC.c and DEC.c (95_test_vectors L2.2 to L2.5, L2.7) -/

/-- E3: the bytes past COUNT are untouched. -/
theorem test_encB3_E3 :
    bAfter (exec (.encB3 0 4 0 9) (start (nine 0) [(0, 0x11), (1, 0x22), (2, 0x33), (3, 0x44)] [])) =
      some [(0, 0x2A), (1, 0x49), (2, 0x33), (3, 0x44)] := by decide
/-- E4: too small a destination. -/
theorem test_encB3_E4 :
    completionOf (exec (.encB3 0 1 0 9) (start (nine 0) [] [])) = some ⟨⟨.fail, 0⟩, some (.fail .capacity)⟩ := by decide
theorem test_encB243_G1 : bAfter (exec (.encB243 0 2 0 9) (start (nine 0) [] [])) = some [(0, 0x2D), (1, 0x4D)] := by decide
theorem test_encBct_K1 :
    bAfter (exec (.encBct 0 3 0 9) (start (nine 0) [] [])) = some [(0, 0x58), (1, 0x84), (2, 0x02)] := by decide
/-- K3: zero padding fields. -/
theorem test_encBct_K3 : bAfter (exec (.encBct 0 1 0 2) (start [(0, 1), (1, 2)] [] [])) = some [(0, 0x09)] := by decide
theorem test_encDpt_Q1 : bAfter (exec (.encDpt 0 2 0 9) (start (nine 0) [] [])) = some [(0, 0x46), (1, 0x89)] := by decide
/-- Q2 and 90_conflicts C8: `[2,2]` is large/small. -/
theorem test_encDpt_Q2 : bAfter (exec (.encDpt 0 1 0 2) (start [(0, 2), (1, 2)] [] [])) = some [(0, 0xC8)] := by decide

/-- D1. -/
theorem test_decB3_D1 : tAfter (exec (.decB3 16 9 0 2) (start [] [(0, 0x2A), (1, 0x49)] [])) = some (nine 16) := by decide
/-- D8: every source byte is validated by default, and only the consumed ones otherwise. -/
theorem test_decB3_D8 :
    completionOf (exec (.decB3 16 5 0 2) (start [] [(0, 0x2A), (1, 0xFF)] [])) =
      some ⟨⟨.fail, 0⟩, some (.fail .invalidCodepoint)⟩ ∧
    tAfter (exec (.decB3 16 5 0 2) (startLazy [] [(0, 0x2A), (1, 0xFF)])) =
      some [(16, 0), (17, 2), (18, 1), (19, 1), (20, 0)] := by decide
theorem test_decB243_G2 : tAfter (exec (.decB243 16 9 0 2) (start [] [(0, 0x2D), (1, 0x4D)] [])) = some (nine 16) := by decide
/-- 42_base243prediv R81: 0xED, never produced, decodes to `[2,2,0,2,2]`. -/
theorem test_decB243_never_produced :
    tAfter (exec (.decB243 0 5 0 1) (start [] [(0, 0xED)] [])) = some [(0, 2), (1, 2), (2, 0), (3, 2), (4, 2)] := by decide
theorem test_decBct_K4 :
    tAfter (exec (.decBct 16 9 0 3) (start [] [(0, 0x58), (1, 0x84), (2, 0x02)] [])) = some (nine 16) := by decide
/-- K6: the byte is validated whole. -/
theorem test_decBct_K6 :
    responseAfter (exec (.decBct 16 1 0 1) (start [] [(0, 0xC2)] [])) = some ⟨.fail, 0⟩ := by decide
theorem test_decDpt_Q4 : tAfter (exec (.decDpt 16 9 0 2) (start [] [(0, 0x46), (1, 0x89)] [])) = some (nine 16) := by decide
/-- Q7: 0xB8 encodes nothing. -/
theorem test_decDpt_Q7 :
    responseAfter (exec (.decDpt 16 1 0 1) (start [] [(0, 0xB8)] [])) = some ⟨.fail, 0⟩ := by decide

/-- L2.6: the last cell of T, and the first address past it. -/
theorem test_tritnew_255 : tAfter (exec (.tritnew 255 0 0 1) (start [(7, 2)] [] [])) = some [(7, 2), (255, 1)] := by decide
theorem test_tritnew_3 :
    tAfter (exec (.tritnew 7 0 0 3) (start [(7, 1)] [] [])) = some [(7, 1)] ∧
    responseAfter (exec (.tritnew 7 0 0 3) (start [(7, 1)] [] [])) = some ⟨.fail, 0⟩ ∧
    responseAfter (exec (.tritnew 256 0 0 1) State.reset) = some ⟨.illegal, 0⟩ := by decide

/-- L2.7, row 5: `255 + 2 > B_SIZE`, although only one byte would be written. -/
theorem test_bounds_before_capacity : responseAfter (exec (.encB3 255 2 0 5) State.reset) = some ⟨.illegal, 0⟩ := by decide
/-- L2.7, row 9: a region of length 0 at base 256 passes the bounds, then CAPACITY fails. -/
theorem test_capacity_after_bounds : responseAfter (exec (.decB3 0 5 256 0) State.reset) = some ⟨.fail, 0⟩ := by decide
/-- L2.7, row 11: CAPACITY comes before any source cell is read. -/
theorem test_capacity_before_uninit : markAfter (exec (.encB3 0 1 0 9) State.reset) = some none := by decide
/-- E6: the model fault, with the index and the address. -/
theorem test_uninit_E6 :
    markAfter (exec (.encB3 0 2 100 9) { start (nine 0) [] [] with cidx := 3 }) = some (some (.uninitRead .T 3 100)) := by decide
/-- P5, first command. -/
theorem test_step_illegal_opcode : responseAfter (step (start [] [] [0x11])) = some ⟨.illegal, 0⟩ := by decide

/-! ## Witnesses: a concrete state and operands that meet the hypotheses of each statement with hypotheses -/

theorem test_witness_DecodeOfEncodeIsIdentity :
    (Instr.decDpt 0xFFFF 0 0xFFFF 1).WellFormed 16 ∧ (Instr.tritnew 3 0 0 3).WellFormed 2 := by decide
theorem test_witness_EncodeOfDecodeIsIdentity : decode 16 0x00020010000700200F = .ok (.decDpt 0x20 7 0x10 2) := by rfl
/-- Each clause at the value where they meet: OP 0x10 and OP 0x11. -/
theorem test_witness_OpcodeMapIsExactly17Commands :
    0x000200000000000110 < 2 ^ descriptorBits 16 ∧ 0x000200000000000110 % 256 ≤ 0x10 ∧
    0x000200000000000111 < 2 ^ descriptorBits 16 ∧ 0x11 ≤ 0x000200000000000111 % 256 := by decide
/-- Each clause at a boundary: the last operand that fits and the first that does not; a wrong letter in each place. -/
theorem test_witness_AssembledCommandsAreWellFormed :
    (assemble 16 (.dec1 .bct) [.tBase 3, .bBase 4]).toOption = some (.decBct 3 4 4 1) ∧ 65535 < 2 ^ 16 ∧ ¬ 65536 < 2 ^ 16 ∧
    ¬ ((∃ d, AsmOperand.bBase 0 = .bBase d) ∧ ∃ a, AsmOperand.bBase 1 = .tBase a) ∧
    ¬ ((∃ d, AsmOperand.bBase 0 = .tBase d) ∧ ∃ a, AsmOperand.bBase 1 = .bBase a) ∧
    ∀ d, AsmOperand.bBase 7 ≠ .tBase d := by simp; decide
/-- The smallest width at which N fits, with the largest addresses. -/
theorem test_witness_PseudoInstructionsExpand :
    3 ≤ 3 ∧ 7 < 2 ^ 3 ∧ (assemble 3 (.enc1 .b3) [.bBase 7, .tBase 7]).toOption = some (.encB3 7 1 7 5) := by decide
/-- The example of 30_encoding R50. -/
theorem test_assemble_example :
    (assemble 16 (.codec .enc .dpt) [.bBase 16, .num 2, .tBase 0, .num 9]).toOption = some (.encDpt 16 2 0 9) := by decide
theorem test_witness_StepRunsTheDecodedCommand :
    (start [] [] [0x000200000000000110]).stream[0]? = some 0x000200000000000110 ∧
    decode (start [] [] []).cfg.addrW 0x000200000000000110 = .ok (.tritnew 1 0 0 2) := ⟨rfl, rfl⟩
theorem test_witness_IllegalOpcodeIsAnsweredIllegal :
    (start [] [] [0x11]).stream[(start [] [] [0x11]).cidx]? = some 0x11 ∧
    0x11 < 2 ^ descriptorBits (start [] [] [0x11]).cfg.addrW ∧ 0x11 ≤ 0x11 % 256 := by decide
theorem test_witness_NoCommandLeftIsRefused : State.reset.stream.length ≤ State.reset.cidx := by decide
theorem test_witness_PlacedDescriptorRunsNext :
    State.reset.cfg.addrW = 16 ∧ decodeTableWord 72 0x000900000003000006 = some (.encBct 0 3 0 9) := ⟨rfl, rfl⟩
/-- Two states that differ in the record, the index and the stream. -/
theorem test_witness_NothingOfACommandSurvivesInTheEngine :
    ∃ s s' t t' : State, s ≠ s' ∧ s'.cfg = s.cfg ∧ s'.T = s.T ∧ s'.B = s.B ∧ s'.draws = s.draws ∧
      exec (.tritnew 7 0 0 2) s = .next t ∧ exec (.tritnew 7 0 0 2) s' = .next t' :=
  ⟨State.reset, { State.reset with stream := [0], cidx := 1, trace := [⟨⟨.ok, 0⟩, none⟩] }, _, _,
    fun h => Nat.zero_ne_one (congrArg State.cidx h), rfl, rfl, rfl, rfl, rfl, rfl⟩
/-- A command that answers OK, from states whose draws differ. -/
theorem test_witness_CommandsArePureFunctionsOfTAndB :
    ∃ s s' t t' : State, s.draws ≠ s'.draws ∧ s'.cfg = s.cfg ∧ s'.T = s.T ∧ s'.B = s.B ∧
      SourceWritten (.tritnew 7 0 0 2) s ∧ exec (.tritnew 7 0 0 2) s = .next t ∧
      exec (.tritnew 7 0 0 2) s' = .next t' ∧ t.trace = s.trace ++ [⟨⟨.ok, 0⟩, none⟩] :=
  ⟨State.reset, { State.reset with draws := 1 }, _, _, by decide, rfl, rfl, rfl,
    ⟨by intro j hj; simp [sourceT] at hj, by intro j hj; simp [sourceB] at hj⟩, rfl, rfl, rfl⟩

/-- A launched stream with a command still to come, over written cells. -/
def launched : State := start [(0, 1), (255, 2)] [(3, 0x2A)] [0x000200000000000110, 0x11]

theorem test_witness_StepsKeepTheInvariant : launched.Inv where
  cfg := exampleConfig_ok
  stream := by decide
  tCanonical := by decide
  tInside := by decide
  bCanonical := by decide
  bInside := by decide
  onePerCommand := rfl
  index := by decide
  countFits := fun c hc => absurd hc (by simp [launched, start, State.reset])
  countOnlyOk := fun _ c hc => absurd hc (by simp [launched, start, State.reset])
  markEarlier := fun sp k a h => absurd h (by simp [launched, start, State.reset])
theorem test_witness_step_answers : ∃ t, step launched = .next t := ⟨_, rfl⟩
theorem test_witness_RunsReachTheEndOfTheStream : launched.Inv ∧ launched.stream.length - launched.cidx = 2 :=
  ⟨test_witness_StepsKeepTheInvariant, rfl⟩
theorem test_witness_InvariantHoldsAtResetAndLaunch :
    launched.Inv ∧ ∀ w ∈ [0x000900000003000006], w < 2 ^ descriptorBits launched.cfg.addrW :=
  ⟨test_witness_StepsKeepTheInvariant, by decide⟩
theorem test_witness_HostWritesKeepTheInvariant :
    launched.Inv ∧ (∃ t, hostWriteT 255 0 launched = .next t) ∧ ∃ t, hostWriteB 255 0xFF launched = .next t :=
  ⟨test_witness_StepsKeepTheInvariant, ⟨_, rfl⟩, ⟨_, rfl⟩⟩
/-- The last cell exists and the next does not, in T and in B. -/
theorem test_witness_HostWritesReachExactlyOneCell :
    255 < launched.cfg.tSize ∧ launched.cfg.tSize ≤ 256 ∧ 255 < launched.cfg.bSize ∧ launched.cfg.bSize ≤ 256 := by decide

theorem test_witness_EncodedSizeIsTheCeiling : 65535 < 2 ^ State.reset.cfg.addrW := by decide
theorem test_witness_DecodedSizeIsTheProduct : 65535 < 2 ^ State.reset.cfg.addrW := by decide
/-- Each clause at the edge of T and B: regions that just fit and regions one cell too long. -/
theorem test_witness_BoundsAreCheckedExactly :
    (247 + 9 ≤ State.reset.cfg.tSize ∧ 254 + 2 ≤ State.reset.cfg.bSize) ∧
    ¬ (248 + 9 ≤ State.reset.cfg.tSize ∧ 254 + 2 ≤ State.reset.cfg.bSize) ∧
    ¬ (247 + 9 ≤ State.reset.cfg.tSize ∧ 255 + 2 ≤ State.reset.cfg.bSize) ∧
    255 < State.reset.cfg.tSize ∧ ¬ 256 < State.reset.cfg.tSize := by decide
theorem test_witness_EncodeIntoTooFewBytesFails :
    0 + 9 ≤ State.reset.cfg.tSize ∧ 255 + 1 ≤ State.reset.cfg.bSize ∧ chunkSizeOf .b3 * 1 < 9 ∧ chunkSizeOf .bct * 2 < 9 := by decide
theorem test_witness_DecodeOfTooManyTritsFails :
    245 + 11 ≤ State.reset.cfg.tSize ∧ 254 + 2 ≤ State.reset.cfg.bSize ∧ 2 * chunkSizeOf .dpt < 11 ∧ 2 * chunkSizeOf .bct < 11 := by decide

theorem nine_holds : RegionHolds (start (nine 0) [] []).T 0 9 nineTrit := by unfold RegionHolds; decide
/-- For ENC.B3, ENC.B243 and ENC.DPT: nine trits into the last two bytes of B. -/
theorem test_witness_EncB3WritesPositionalBytes :
    0 + 9 ≤ (start (nine 0) [] []).cfg.tSize ∧ 254 + 2 ≤ (start (nine 0) [] []).cfg.bSize ∧ 9 ≤ 5 * 2 ∧
    RegionHolds (start (nine 0) [] []).T 0 9 nineTrit := ⟨by decide, by decide, by decide, nine_holds⟩
theorem test_witness_EncB243WritesRescaledBytes :
    0 + 9 ≤ (start (nine 0) [] []).cfg.tSize ∧ 254 + 2 ≤ (start (nine 0) [] []).cfg.bSize ∧ 9 ≤ 5 * 2 ∧
    RegionHolds (start (nine 0) [] []).T 0 9 nineTrit := ⟨by decide, by decide, by decide, nine_holds⟩
theorem test_witness_EncBctWritesTwoBitFields :
    0 + 9 ≤ (start (nine 0) [] []).cfg.tSize ∧ 253 + 3 ≤ (start (nine 0) [] []).cfg.bSize ∧ 9 ≤ 4 * 3 ∧
    RegionHolds (start (nine 0) [] []).T 0 9 nineTrit := ⟨by decide, by decide, by decide, nine_holds⟩
theorem test_witness_EncDptWritesDefaultLayouts :
    (start (nine 0) [] []).cfg.dptTable = dptDefaultTable ∧
    0 + 9 ≤ (start (nine 0) [] []).cfg.tSize ∧ 254 + 2 ≤ (start (nine 0) [] []).cfg.bSize ∧ 9 ≤ 5 * 2 ∧
    RegionHolds (start (nine 0) [] []).T 0 9 nineTrit := ⟨rfl, by decide, by decide, by decide, nine_holds⟩
theorem test_witness_EncDptWritesTableBytes :
    DptTableOk (start (nine 0) [] []).cfg.dptTable ∧
    0 + 9 ≤ (start (nine 0) [] []).cfg.tSize ∧ 254 + 2 ≤ (start (nine 0) [] []).cfg.bSize ∧ 9 ≤ 5 * 2 ∧
    RegionHolds (start (nine 0) [] []).T 0 9 nineTrit := ⟨dptDefaultTable_ok, by decide, by decide, by decide, nine_holds⟩

/-- Nine trits from two bytes into the last cells of T; the last byte is only partly requested. -/
theorem test_witness_DecB3WritesBaseThreeDigits :
    247 + 9 ≤ (start [] [(0, 0x2A), (1, 0xF2)] []).cfg.tSize ∧ 0 + 2 ≤ (start [] [(0, 0x2A), (1, 0xF2)] []).cfg.bSize ∧ 9 ≤ 5 * 2 ∧
    RegionHolds (start [] [(0, 0x2A), (1, 0xF2)] []).B 0 (bytesRead (start [] [] []).cfg .b3 9 2) (fun j => ([0x2A, 0xF2] : List Byte).getD j 0) ∧
    ∀ j < bytesRead (start [] [] []).cfg .b3 9 2, (([0x2A, 0xF2] : List Byte).getD j 0).toNat ≤ 242 := by
  unfold RegionHolds; decide
theorem test_witness_DecB243WritesRescaledDigits :
    247 + 9 ≤ (startLazy [] [(0, 0x01), (1, 0xFF)]).cfg.tSize ∧ 0 + 3 ≤ (startLazy [] [(0, 0x01), (1, 0xFF)]).cfg.bSize ∧ 9 ≤ 5 * 3 ∧
    RegionHolds (startLazy [] [(0, 0x01), (1, 0xFF)]).B 0 (bytesRead (startLazy [] []).cfg .b243 9 3)
      (fun j => ([0x01, 0xFF] : List Byte).getD j 0) := by
  unfold RegionHolds; decide
theorem test_witness_DecBctWritesFields :
    247 + 9 ≤ (start [] [(0, 0x58), (1, 0x84), (2, 0xAA)] []).cfg.tSize ∧ 0 + 3 ≤ (start [] [(0, 0x58), (1, 0x84), (2, 0xAA)] []).cfg.bSize ∧
    9 ≤ 4 * 3 ∧
    RegionHolds (start [] [(0, 0x58), (1, 0x84), (2, 0xAA)] []).B 0 (bytesRead (start [] [] []).cfg .bct 9 3)
      (fun j => ([0x58, 0x84, 0xAA] : List Byte).getD j 0) ∧
    ∀ j < bytesRead (start [] [] []).cfg .bct 9 3, ∀ f < 4, (([0x58, 0x84, 0xAA] : List Byte).getD j 0).toNat / 4 ^ f % 4 ≠ 3 := by
  unfold RegionHolds; decide
theorem test_witness_DecDptReadsDefaultLayouts :
    (start [] [(0, 0xB7), (1, 0xFA)] []).cfg.dptTable = dptDefaultTable ∧
    247 + 9 ≤ (start [] [(0, 0xB7), (1, 0xFA)] []).cfg.tSize ∧ 0 + 2 ≤ (start [] [(0, 0xB7), (1, 0xFA)] []).cfg.bSize ∧ 9 ≤ 5 * 2 ∧
    RegionHolds (start [] [(0, 0xB7), (1, 0xFA)] []).B 0 (bytesRead (start [] [] []).cfg .dpt 9 2) (fun j => ([0xB7, 0xFA] : List Byte).getD j 0) ∧
    ∀ j < bytesRead (start [] [] []).cfg .dpt 9 2, dptDefaultValid (([0xB7, 0xFA] : List Byte).getD j 0) = true := by
  refine ⟨rfl, ?_⟩; unfold RegionHolds; decide
/-- The values 0 and 242 at both ends of the table: bytes 0x00 and 0xFA. -/
theorem test_witness_DecDptInvertsTheTable :
    DptTableOk (start [] [(0, 0x00), (1, 0xFA)] []).cfg.dptTable ∧
    246 + 10 ≤ (start [] [(0, 0x00), (1, 0xFA)] []).cfg.tSize ∧ 0 + 2 ≤ (start [] [(0, 0x00), (1, 0xFA)] []).cfg.bSize ∧ 10 ≤ 5 * 2 ∧
    (∀ j < bytesRead (start [] [] []).cfg .dpt 10 2, 242 * j < 243) ∧
    RegionHolds (start [] [(0, 0x00), (1, 0xFA)] []).B 0 (bytesRead (start [] [] []).cfg .dpt 10 2)
      (fun j => tableByte (start [] [] []).cfg.dptTable (242 * j)) := by
  refine ⟨dptDefaultTable_ok, ?_⟩; unfold RegionHolds; decide +kernel
/-- One invalid byte per codec that has one, at its boundary; for B243 there is none (R80), so that case of the statement is empty. -/
theorem test_witness_DecodeOfInvalidByteFails :
    16 + 5 ≤ State.reset.cfg.tSize ∧ 0 + 2 ≤ State.reset.cfg.bSize ∧ 5 ≤ 2 * chunkSizeOf .b3 ∧ 5 ≤ 2 * chunkSizeOf .bct ∧
    RegionHolds (start [] [(0, 0x2A), (1, 0xF3)] []).B 0 (bytesRead State.reset.cfg .b3 5 2) (fun j => ([0x2A, 0xF3] : List Byte).getD j 0) ∧
    1 < bytesRead State.reset.cfg .b3 5 2 ∧ InvalidCodepoint State.reset.cfg .b3 0xF3 ∧
    RegionHolds (start [] [(0, 0x58), (1, 0x03)] []).B 0 (bytesRead State.reset.cfg .bct 5 2) (fun j => ([0x58, 0x03] : List Byte).getD j 0) ∧
    1 < bytesRead State.reset.cfg .bct 5 2 ∧ InvalidCodepoint State.reset.cfg .bct 0x03 ∧
    RegionHolds (start [] [(0, 0x46), (1, 0xFB)] []).B 0 (bytesRead State.reset.cfg .dpt 5 2) (fun j => ([0x46, 0xFB] : List Byte).getD j 0) ∧
    1 < bytesRead State.reset.cfg .dpt 5 2 ∧ InvalidCodepoint State.reset.cfg .dpt 0xFB := by
  unfold RegionHolds InvalidCodepoint; decide +kernel
theorem test_witness_DecB243HasNoInvalidCodepoint :
    ∃ t, exec (.decB243 0 5 0 1) (start [] [(0, 0x01)] []) = .next t ∧
      t.trace = (start [] [(0, 0x01)] []).trace ++ [⟨⟨.ok, 0⟩, none⟩] := ⟨_, rfl, rfl⟩
/-- The second of two bytes differs, and is unwritten in one of the states (D9). -/
theorem test_witness_UnconsumedBytesDoNotMatter :
    (startLazy [] [(0, 0x2A), (1, 0xFF)]).cfg.validateAllSource = false ∧ 5 ≤ chunkSizeOf .b3 * 1 ∧
    chunkSizeOf .b3 * 1 < 5 + chunkSizeOf .b3 ∧
    (∀ j < 1, cellRead ([(0, 0x2A)] : Space Byte) (0 + j) = cellRead (startLazy [] [(0, 0x2A), (1, 0xFF)]).B (0 + j)) ∧
    (∃ t, exec (.decB3 16 5 0 2) (startLazy [] [(0, 0x2A), (1, 0xFF)]) = .next t) ∧
    ∃ t, exec (.decB3 16 5 0 2) { startLazy [] [(0, 0x2A), (1, 0xFF)] with B := [(0, 0x2A)] } = .next t :=
  ⟨rfl, by decide, by decide, by decide, ⟨_, rfl⟩, ⟨_, rfl⟩⟩
/-- The three clauses where they meet: addresses 256 and 255, values 3 and 2. -/
theorem test_witness_TritnewChecksItsRange :
    State.reset.cfg.tSize ≤ 256 ∧ (255 < State.reset.cfg.tSize ∧ 3 ≤ 3) ∧ 255 < State.reset.cfg.tSize ∧ 2 < 3 := by decide
/-- A command that fails and one that is illegal. -/
theorem test_witness_FailuresKeepEverythingOutsideTheDestination :
    (∃ t, exec (.encB3 0 1 0 9) State.reset = .next t ∧ t.trace = State.reset.trace ++ [⟨⟨.fail, 0⟩, some (.fail .capacity)⟩]) ∧
    ∃ t, exec (.encB3 255 2 0 5) State.reset = .next t ∧
      t.trace = State.reset.trace ++ [⟨⟨.illegal, 0⟩, some (.illegal .bounds)⟩] := ⟨⟨_, rfl, rfl⟩, ⟨_, rfl, rfl⟩⟩
theorem nine_written : SourceWritten (.encBct 0 3 0 9) (start (nine 0) [] []) :=
  ⟨fun j hj => ⟨nineTrit j, nine_holds j hj⟩, fun j hj => by simp [sourceB] at hj⟩
theorem test_witness_CommandsKeepEverythingOutsideTheDestination :
    SourceWritten (.encBct 0 3 0 9) (start (nine 0) [] []) ∧ ∃ t, exec (.encBct 0 3 0 9) (start (nine 0) [] []) = .next t :=
  ⟨nine_written, ⟨_, rfl⟩⟩
theorem test_witness_WrittenCellsStayWritten : ∃ t, exec (.encBct 0 3 0 9) (start (nine 0) [] []) = .next t := ⟨_, rfl⟩
/-- The third of nine trits is the first unwritten one. -/
theorem test_witness_EncodeOfUnwrittenTritsSetsTheMark :
    0 + 9 ≤ State.reset.cfg.tSize ∧ 0 + 2 ≤ State.reset.cfg.bSize ∧ 9 ≤ chunkSizeOf .b3 * 2 ∧ 2 < 9 ∧
    cellRead (start [(0, 1), (1, 1)] [] []).T (0 + 2) = none ∧ ∀ i < 2, cellRead (start [(0, 1), (1, 1)] [] []).T (0 + i) ≠ none := by decide
/-- An invalid byte comes before the unwritten one, and the model fault is raised all the same. -/
theorem test_witness_DecodeOfUnwrittenBytesSetsTheMark :
    0 + 5 ≤ State.reset.cfg.tSize ∧ 0 + 2 ≤ State.reset.cfg.bSize ∧ 5 ≤ 2 * chunkSizeOf .b3 ∧
    1 < bytesRead State.reset.cfg .b3 5 2 ∧
    cellRead (start [] [(0, 0xFF)] []).B (0 + 1) = none ∧ ∀ i < 1, cellRead (start [] [(0, 0xFF)] []).B (0 + i) ≠ none := by decide
/-- A step that sets the mark, and one from a state whose mark is set. -/
theorem test_witness_TheFirstFaultStays :
    (∃ t, step (start [] [] [0x000900000002000004]) = .next t) ∧
    ∃ t, step { start [] [] [0x000900000002000004] with faultMark := some (.uninitRead .B 0 1) } = .next t := ⟨⟨_, rfl⟩, ⟨_, rfl⟩⟩
theorem test_witness_ResponsesKeepTheirFormat :
    (Instr.encBct 0 3 0 9).WellFormed (start (nine 0) [] []).cfg.addrW ∧ SourceWritten (.encBct 0 3 0 9) (start (nine 0) [] []) ∧
    ∃ t, exec (.encBct 0 3 0 9) (start (nine 0) [] []) = .next t ∧
      t.trace = (start (nine 0) [] []).trace ++ [⟨⟨.ok, 3⟩, none⟩] := ⟨by decide, nine_written, ⟨_, rfl, rfl⟩⟩
theorem test_witness_ChunksRoundTrip : DptTableOk exampleConfig.dptTable := dptDefaultTable_ok
theorem test_witness_SequencesRoundTrip :
    DptTableOk (start (nine 0) [] []).cfg.dptTable ∧ SourceWritten (codecCommand .enc .bct 0 3 0 9) (start (nine 0) [] []) ∧
    (∃ t, exec (codecCommand .enc .bct 0 3 0 9) (start (nine 0) [] []) = .next t ∧
      t.trace = (start (nine 0) [] []).trace ++ [⟨⟨.ok, 3⟩, none⟩]) ∧ 247 + 9 ≤ (start (nine 0) [] []).cfg.tSize :=
  ⟨dptDefaultTable_ok, nine_written, ⟨_, rfl, rfl⟩, by decide⟩

end Sys2Proof.Tests
end

