-- ==== Sys2Proof/Proofs/Encode.lean ====
section
/-! SUPPORT. What an ENC.c leaves when its checks pass, over any codec: the bytes it writes and the trits of a padded chunk. -/

namespace Sys2Proof.Machine

/-- A written region reads as before outside itself (20_memory R34). -/
theorem regionWrite_sameOutside {α : Type} (m : Space α) (a : Nat) (vs : List α) :
    SameOutside m (regionWrite m a vs) a vs.length :=
  fun x hx => regionWrite_outside vs m a x hx

@[simp] theorem encodeTrits_length (c : Codec) (t : List Trit) :
    (encodeTrits c t).length = ceilDiv t.length c.chunkN := by
  simp [encodeTrits]

theorem encodeTrits_getElem? (c : Codec) (t : List Trit) {j : Nat} (hj : j < ceilDiv t.length c.chunkN) :
    (encodeTrits c t)[j]? = some (c.encodeChunk (chunkAt c.chunkN t j)) := by
  simp [encodeTrits, hj]

/-- Trit `i` of chunk `j` is the sequence's trit there, or the zero of the padding (40_contract R53, R54). -/
theorem chunkAt_val (chunkN n j i : Nat) (t : Nat → Trit) :
    (chunkAt chunkN ((List.range n).map t) j i).val = padded t n (chunkN * j + i) := by
  unfold chunkAt padded
  split_ifs with h <;> simp [List.getD, h]

/-- ENC.c with its regions in bounds, room for its bytes and a written source ends with OK (40_contract R59). -/
theorem encodeSlice_of_written (c : Codec) {s : State} {d cap src n : Nat} {t : Nat → Trit}
    (hT : src + n ≤ s.cfg.tSize) (hB : d + cap ≤ s.cfg.bSize) (hcap : ceilDiv n c.chunkN ≤ cap)
    (hsrc : RegionHolds s.T src n t) :
    encodeSlice c d cap src n s =
      respondOk (ceilDiv n c.chunkN) (storeBytes d (encodeTrits c ((List.range n).map t)) s) := by
  rw [encodeSlice, if_pos ((encInBounds_iff ..).mpr ⟨hT, hB⟩), if_neg (Nat.not_lt.mpr hcap),
    regionRead_of_written _ _ _ t hsrc]

/-- The whole next state of such an ENC.c: COUNT is the least count of chunks that holds the trits, byte `j` of the destination is the
encoding of chunk `j`, and nothing past COUNT bytes is touched (40_contract R53, R59). -/
theorem encodeSlice_writes (c : Codec) {s : State} {d cap src n : Nat} {t : Nat → Trit} (hN : 0 < c.chunkN)
    (hT : src + n ≤ s.cfg.tSize) (hB : d + cap ≤ s.cfg.bSize) (hcap : n ≤ c.chunkN * cap)
    (hsrc : RegionHolds s.T src n t) :
    ∃ B' count, encodeSlice c d cap src n s = .next { s with
        B := B', trace := s.trace ++ [⟨⟨.ok, count⟩, none⟩], cidx := s.cidx + 1 } ∧
      n ≤ c.chunkN * count ∧ c.chunkN * count < n + c.chunkN ∧ SameOutside s.B B' d count ∧
      ∀ j < count, cellRead B' (d + j) = some (c.encodeChunk (chunkAt c.chunkN ((List.range n).map t) j)) := by
  obtain ⟨hlow, hhigh⟩ := ceilDiv_bounds n c.chunkN hN
  have hfit : ceilDiv n c.chunkN ≤ cap := (ceilDiv_le_iff _ _ _ hN).mpr hcap
  have hlen : (encodeTrits c ((List.range n).map t)).length = ceilDiv n c.chunkN := by simp
  refine ⟨regionWrite s.B d (encodeTrits c ((List.range n).map t)), ceilDiv n c.chunkN,
    encodeSlice_of_written c hT hB hfit hsrc, hlow, hhigh, ?_, fun j hj => ?_⟩
  · rw [← hlen]
    exact regionWrite_sameOutside _ _ _
  · rw [regionWrite_inside _ _ _ _ (hlen ▸ hj), encodeTrits_getElem? _ _ (by simpa using hj)]

end Sys2Proof.Machine
end

