-- ==== Sys2Proof/Proofs/EncodeDpt.lean ====
section
/-! SUPPORT. ENC.DPT under any legal table (44_dpt R111). -/

namespace Sys2Proof.Machine

theorem val3_lt (x : Chunk) : val3 x < 243 := by
  unfold val3
  omega

/-- Within a table of 243 bytes, the byte of a chunk is the entry at its base-3 value (44_dpt R111; log entry 9). -/
theorem getElem?_val3_eq_dptEncode {table : List Byte} (h : table.length = 243) (x : Chunk) :
    table[val3 x]? = some (dptEncode table x) := by
  have hv : val3 x < table.length := h ▸ val3_lt x
  simp [dptEncode, tableByte, List.getD, hv]

/-- Settles O25: ENC.c of the codec `dpt`, whose chunk encoding is the table's entry at the chunk's base-3 value. -/
theorem encDptWritesTableBytes : Obligations.EncDptWritesTableBytes := by
  intro s d cap src n t htable hT hB hcap hsrc
  obtain ⟨B', count, hexec, hlow, hhigh, hframe, hbytes⟩ :=
    encodeSlice_writes (dpt s.cfg.dptTable) (show 0 < 5 by omega) hT hB hcap hsrc
  refine ⟨B', count, hexec, hlow, hhigh, hframe, fun j hj => ?_⟩
  refine ⟨val3 (chunkAt 5 ((List.range n).map t) j), val3_lt _, ?_, ?_⟩
  · rw [getElem?_val3_eq_dptEncode htable.total]
    exact hbytes j hj
  · simp only [val3, chunkAt_val, Nat.add_zero]

end Sys2Proof.Machine
end

