-- ==== Sys2Proof/Proofs/Step.lean ====
section
/-! SUPPORT. The step on a stream entry that is a command (10_state R21, R27). -/

namespace Sys2Proof.Machine

/-- Settles O7: the step reads the entry at `cidx`, decodes it, and runs the command. -/
theorem stepRunsTheDecodedCommand : Obligations.StepRunsTheDecodedCommand := by
  intro s w i hentry hdecode
  simp only [step, nextDescriptor, hentry, hdecode]

end Sys2Proof.Machine
end

