-- ==== Sys2Proof/Proofs/InvariantBase.lean ====
section
/-! SUPPORT. Where the invariant starts: power-on and the launch of a stream (70_reset_and_hazards R133, R135). -/

namespace Sys2Proof.Machine

/-- A launched stream of descriptors has an empty record and no mark, and the spaces are as the host left them, so it is enough that the
parameters are legal and the spaces are well formed. -/
theorem launch_inv {p : List Nat} {s : State} (hcfg : ConfigOk s.cfg)
    (hT : Memory.wf s.T ∧ Memory.inside s.cfg.tSize s.T) (hB : Memory.wf s.B ∧ Memory.inside s.cfg.bSize s.B)
    (hp : ∀ w ∈ p, w < 2 ^ descriptorBits s.cfg.addrW) : (launch p s).Inv where
  cfg := hcfg
  stream := hp
  tCanonical := hT.1
  tInside := hT.2
  bCanonical := hB.1
  bInside := hB.2
  onePerCommand := rfl
  index := Nat.zero_le _
  countFits := by simp
  countOnlyOk := by simp
  markEarlier := by simp

/-- Power-on is the launch of an empty stream over empty spaces, at the example parameters (log entries 1, 7). -/
theorem reset_inv : State.reset.Inv :=
  have hempty {α : Type} (size : Nat) : Memory.wf ([] : Space α) ∧ Memory.inside size ([] : Space α) := by simp
  launch_inv (p := []) (s := State.reset) exampleConfig_ok (hempty _) (hempty _) (by simp)

/-- Settles O49: both are launches over legal parameters and well-formed spaces. -/
theorem invariantHoldsAtResetAndLaunch : Obligations.InvariantHoldsAtResetAndLaunch :=
  ⟨reset_inv, fun _ _ hs hp => launch_inv hs.cfg ⟨hs.tCanonical, hs.tInside⟩ ⟨hs.bCanonical, hs.bInside⟩ hp⟩

end Sys2Proof.Machine
end

section
/-! SUPPORT. The 17 commands by form: four operations over a codec, and TRITNEW (30_encoding R46); the operation each one runs, and the
words a decoded one carries. -/

namespace Sys2Proof.Machine

/-- Every command is a codec command or TRITNEW. -/
theorem instr_cases {motive : Instr → Prop}
    (codec : ∀ f c a0 a1 a2 a3, motive (codecCommand f c a0 a1 a2 a3))
    (tritnew : ∀ a0 a1 a2 a3, motive (.tritnew a0 a1 a2 a3)) : ∀ i, motive i
  | .encszB3 a0 a1 a2 a3 => codec .encsz .b3 a0 a1 a2 a3
  | .encszB243 a0 a1 a2 a3 => codec .encsz .b243 a0 a1 a2 a3
  | .encszBct a0 a1 a2 a3 => codec .encsz .bct a0 a1 a2 a3
  | .encszDpt a0 a1 a2 a3 => codec .encsz .dpt a0 a1 a2 a3
  | .encB3 a0 a1 a2 a3 => codec .enc .b3 a0 a1 a2 a3
  | .encB243 a0 a1 a2 a3 => codec .enc .b243 a0 a1 a2 a3
  | .encBct a0 a1 a2 a3 => codec .enc .bct a0 a1 a2 a3
  | .encDpt a0 a1 a2 a3 => codec .enc .dpt a0 a1 a2 a3
  | .decszB3 a0 a1 a2 a3 => codec .decsz .b3 a0 a1 a2 a3
  | .decszB243 a0 a1 a2 a3 => codec .decsz .b243 a0 a1 a2 a3
  | .decszBct a0 a1 a2 a3 => codec .decsz .bct a0 a1 a2 a3
  | .decszDpt a0 a1 a2 a3 => codec .decsz .dpt a0 a1 a2 a3
  | .decB3 a0 a1 a2 a3 => codec .dec .b3 a0 a1 a2 a3
  | .decB243 a0 a1 a2 a3 => codec .dec .b243 a0 a1 a2 a3
  | .decBct a0 a1 a2 a3 => codec .dec .bct a0 a1 a2 a3
  | .decDpt a0 a1 a2 a3 => codec .dec .dpt a0 a1 a2 a3
  | .tritnew a0 a1 a2 a3 => tritnew a0 a1 a2 a3

/-! ## The operation a command runs -/

section
variable (c : CodecName) (a0 a1 a2 a3 : Nat) (s : State)

theorem exec_encsz : exec (codecCommand .encsz c a0 a1 a2 a3) s = encodedSize (chunkSizeOf c) a3 s := by
  cases c <;> rfl

theorem exec_enc : exec (codecCommand .enc c a0 a1 a2 a3) s = encodeSlice (codecOf s.cfg c) a0 a1 a2 a3 s := by
  cases c <;> rfl

theorem exec_decsz : exec (codecCommand .decsz c a0 a1 a2 a3) s = decodedSize (chunkSizeOf c) a3 s := by
  cases c <;> rfl

theorem exec_dec : exec (codecCommand .dec c a0 a1 a2 a3) s = decodeSlice (codecOf s.cfg c) a0 a1 a2 a3 s := by
  cases c <;> rfl

theorem exec_tritnew : exec (.tritnew a0 a1 a2 a3) s = execTritnew a0 a1 a2 a3 s := rfl

end

@[simp] theorem codecOf_chunkN (cfg : Config) (c : CodecName) : (codecOf cfg c).chunkN = chunkSizeOf c := by
  cases c <;> rfl

theorem chunkSizeOf_pos (c : CodecName) : 0 < chunkSizeOf c := by cases c <;> decide

theorem chunkSizeOf_le_five (c : CodecName) : chunkSizeOf c ≤ 5 := by cases c <;> decide

@[simp] theorem sourceT_enc (c : CodecName) (d cap src n : Nat) :
    sourceT (codecCommand .enc c d cap src n) = (src, n) := by cases c <;> rfl

@[simp] theorem sourceB_dec (cfg : Config) (c : CodecName) (d k src m : Nat) :
    sourceB cfg (codecCommand .dec c d k src m) = (src, bytesRead cfg c k m) := by cases c <;> rfl

/-! ## What the decoder answers -/

theorem bitField_lt (w lo width : Nat) : bitField w lo width < 2 ^ width := Nat.mod_lt _ (Nat.two_pow_pos width)

/-- The decoder passes the four operand words on as they are (30_encoding R46). -/
theorem words_of_decodeFields {op a0 a1 a2 a3 : Nat} {i : Instr} (h : decodeFields op a0 a1 a2 a3 = .ok i) :
    i.words = (a0, a1, a2, a3) := by
  unfold decodeFields at h
  split_ifs at h
  · cases h; simp
  · cases h; rfl

/-- A decoded command is well formed: its words are bit fields of ADDR_W bits (30_encoding R44). -/
theorem wellFormed_of_decode {addrW w : Nat} {i : Instr} (h : decode addrW w = .ok i) : i.WellFormed addrW := by
  unfold decode at h
  split_ifs at h
  simp [Instr.WellFormed, words_of_decodeFields h, bitField_lt]

/-- A number of at most `8 + 4 * ADDR_W` bits is a command or has an illegal OP (30_encoding R44, R49). -/
theorem decode_of_descriptor {addrW w : Nat} (h : w < 2 ^ descriptorBits addrW) :
    (∃ i, decode addrW w = .ok i) ∨ ∃ op, decode addrW w = .error (.illegalOpcode op) := by
  simp only [decode, if_neg (Nat.not_le.mpr h), decodeFields]
  split_ifs
  · exact .inl ⟨_, rfl⟩
  · exact .inl ⟨_, rfl⟩
  · exact .inr ⟨_, rfl⟩

end Sys2Proof.Machine
end

section
/-! SUPPORT. How every command ends, said once: it changes at most one region of T or of B and returns one response, or it reads an
unwritten cell (60_exceptions R118 to R121). -/

namespace Sys2Proof.Machine

variable {s u t : State}

/-! ## What a command does to the spaces -/

/-- Before a command responds it has changed at most one region, inside its space: clobbered it (40_contract R61) or written it
(40_contract R59, R60, R63). -/
inductive RegionChange (s : State) : State → Prop
  | unchanged : RegionChange s s
  | clobberT {a n : Nat} (hfit : a + n ≤ s.cfg.tSize) : RegionChange s (clobberT a n s)
  | clobberB {a n : Nat} (hfit : a + n ≤ s.cfg.bSize) : RegionChange s (clobberB a n s)
  | storeTrits {a : Nat} {vs : List Trit} (hfit : a + vs.length ≤ s.cfg.tSize) : RegionChange s (storeTrits a vs s)
  | storeBytes {a : Nat} {vs : List Byte} (hfit : a + vs.length ≤ s.cfg.bSize) : RegionChange s (storeBytes a vs s)

/-- A change of a region leaves the parameters, the stream, the index, the record and the mark alone. -/
theorem RegionChange.keeps (h : RegionChange s u) :
    u.cfg = s.cfg ∧ u.stream = s.stream ∧ u.cidx = s.cidx ∧ u.trace = s.trace ∧ u.faultMark = s.faultMark := by
  cases h <;> exact ⟨rfl, rfl, rfl, rfl, rfl⟩

/-- The spaces after the model fault: every cell of T, then every cell of B, is clobbered (60_exceptions R121; log entry 2). -/
def clobberAll (s : State) : State := clobberB 0 s.cfg.bSize (clobberT 0 s.cfg.tSize s)

/-- The two changes of the model fault, one after the other. -/
theorem clobberAll_changes (s : State) :
    RegionChange s (clobberT 0 s.cfg.tSize s) ∧ RegionChange (clobberT 0 s.cfg.tSize s) (clobberAll s) :=
  ⟨.clobberT (by simp), .clobberB (by simp)⟩

/-- The state after the model fault of a read of cell `a` of `sp`, before the command responds. -/
def faulted (sp : SpaceName) (a : Nat) (s : State) : State :=
  { clobberAll s with
    faultMark := some (firstFault s.faultMark (.uninitRead sp s.cidx a))
    draws := (clobberAll s).draws + 1 }

theorem raiseUninit_eq_finish (sp : SpaceName) (a : Nat) (s : State) :
    raiseUninit sp a s = .next (finish (freeResponse s.cfg (clobberAll s).draws) none (faulted sp a s)) := rfl

/-! ## How a command ends -/

/-- How a command `i` ends whose COUNT is at most `max`. -/
inductive CommandEnd (i : Instr) (max : Nat) (s : State) : State → Prop
  /-- It returns a response, with COUNT 0 unless OK (10_state R28). -/
  | responds {r : Response} {cause : Option Cause} {u : State} (hchange : RegionChange s u) (hmax : r.count ≤ max)
      (hok : r.status ≠ .ok → r.count = 0) : CommandEnd i max s (finish r cause u)
  /-- A cell of its source is unwritten (60_exceptions R121). -/
  | uninit {sp : SpaceName} {a : Nat} (hcell : a < spaceSize s.cfg sp) (hsource : ¬ SourceWritten i s) :
      CommandEnd i max s (finish (freeResponse s.cfg (clobberAll s).draws) none (faulted sp a s))

theorem encodedSize_ends (i : Instr) (chunkN n : Nat) (s : State) :
    ∃ t, encodedSize chunkN n s = .next t ∧ CommandEnd i (ceilDiv n chunkN) s t :=
  ⟨_, rfl, .responds .unchanged le_rfl (absurd rfl)⟩

theorem decodedSize_ends (i : Instr) (chunkN m : Nat) (s : State) :
    ∃ t, decodedSize chunkN m s = .next t ∧ CommandEnd i (m * chunkN) s t :=
  ⟨_, rfl, .responds .unchanged le_rfl (absurd rfl)⟩

/-- The COUNT of an ENC.c is at most its capacity. -/
theorem exec_enc_ends (c : CodecName) (d cap src n : Nat) (s : State) :
    ∃ t, exec (codecCommand .enc c d cap src n) s = .next t ∧ CommandEnd (codecCommand .enc c d cap src n) cap s t := by
  rw [exec_enc]
  obtain ⟨-, h⟩ | ⟨⟨-, hB⟩, -, h⟩ | ⟨⟨hT, -⟩, -, j, hj, hnone, -, h⟩ | ⟨⟨-, hB⟩, hcap, trits, rfl, -, h⟩ :=
    encodeSlice_cases (codecOf s.cfg c) d cap src n s <;> rw [h]
  · exact ⟨_, rfl, .responds .unchanged (Nat.zero_le _) fun _ => rfl⟩
  · exact ⟨_, rfl, .responds (.clobberB hB) (Nat.zero_le _) fun _ => rfl⟩
  · refine ⟨_, raiseUninit_eq_finish .., .uninit (show src + j < s.cfg.tSize by omega) fun hw => ?_⟩
    obtain ⟨v, hv⟩ := hw.1 j (by simpa using hj)
    simp [hnone] at hv
  · exact ⟨_, rfl, .responds (.storeBytes (by rw [encodeTrits_length]; omega)) hcap (absurd rfl)⟩

/-- A DEC.c that passes its CAPACITY check reads no byte past its source region (40_contract R60). -/
theorem decReadCount_le {cfg : Config} {chunkN k m : Nat} (hN : 0 < chunkN) (hcap : k ≤ m * chunkN) :
    decReadCount cfg chunkN k m ≤ m := by
  unfold decReadCount
  split_ifs
  · exact le_rfl
  · exact (ceilDiv_le_iff _ _ _ hN).mpr (by rwa [Nat.mul_comm])

/-- The COUNT of a DEC.c is 0. -/
theorem exec_dec_ends (c : CodecName) (d k src m : Nat) (s : State) :
    ∃ t, exec (codecCommand .dec c d k src m) s = .next t ∧ CommandEnd (codecCommand .dec c d k src m) 0 s t := by
  rw [exec_dec]
  obtain ⟨-, h⟩ | ⟨⟨hT, -⟩, -, h⟩ | ⟨⟨-, hB⟩, hcap, j, hj, hnone, -, h⟩ | ⟨⟨hT, -⟩, -, b, -, -, -, h⟩ |
      ⟨⟨hT, -⟩, -, b, -, -, -, h⟩ := decodeSlice_cases (codecOf s.cfg c) d k src m s <;> rw [h]
  · exact ⟨_, rfl, .responds .unchanged le_rfl fun _ => rfl⟩
  · exact ⟨_, rfl, .responds (.clobberT hT) le_rfl fun _ => rfl⟩
  · have hread : decReadCount s.cfg (codecOf s.cfg c).chunkN k m ≤ m :=
      decReadCount_le (by simpa using chunkSizeOf_pos c) hcap
    refine ⟨_, raiseUninit_eq_finish .., .uninit (show src + j < s.cfg.bSize by omega) fun hw => ?_⟩
    obtain ⟨v, hv⟩ := hw.2 j (by simpa [bytesRead] using hj)
    simp [hnone] at hv
  · exact ⟨_, rfl, .responds (.clobberT hT) le_rfl fun _ => rfl⟩
  · have hlen : ((decodeBytes (codecOf s.cfg c) (b.take (ceilDiv k (codecOf s.cfg c).chunkN))).take k).length ≤ k :=
      List.length_take_le ..
    exact ⟨_, rfl, .responds (.storeTrits (by omega)) le_rfl fun _ => rfl⟩

/-- The COUNT of TRITNEW is 0. -/
theorem exec_tritnew_ends (d a1 a2 v : Nat) (s : State) :
    ∃ t, exec (.tritnew d a1 a2 v) s = .next t ∧ CommandEnd (.tritnew d a1 a2 v) 0 s t := by
  rw [exec_tritnew]
  obtain ⟨-, h⟩ | ⟨-, -, h⟩ | ⟨hd, -, h⟩ := execTritnew_cases d a1 a2 v s <;> rw [h]
  · exact ⟨_, rfl, .responds .unchanged le_rfl fun _ => rfl⟩
  · exact ⟨_, rfl, .responds .unchanged le_rfl fun _ => rfl⟩
  · exact ⟨_, rfl, .responds (.storeTrits hd) le_rfl fun _ => rfl⟩

/-- Every command, in every state, answers a next state, with a COUNT that fits in COUNT_W bits when its words fit in ADDR_W bits. -/
theorem exec_ends (i : Instr) (s : State) :
    ∃ t max, exec i s = .next t ∧ CommandEnd i max s t ∧ (i.WellFormed s.cfg.addrW → max < 2 ^ (s.cfg.addrW + 3)) := by
  have hpow : 2 ^ (s.cfg.addrW + 3) = 8 * 2 ^ s.cfg.addrW := by rw [pow_add]; omega
  induction i using instr_cases with
  | codec f c a0 a1 a2 a3 =>
    simp only [Instr.WellFormed, codecCommand_words, hpow]
    cases f with
    | encsz =>
      have hceil : ceilDiv a3 (chunkSizeOf c) ≤ a3 :=
        (ceilDiv_le_iff _ _ _ (chunkSizeOf_pos c)).mpr (Nat.le_mul_of_pos_left _ (chunkSizeOf_pos c))
      obtain ⟨t, ht, hend⟩ := encodedSize_ends (codecCommand .encsz c a0 a1 a2 a3) (chunkSizeOf c) a3 s
      exact ⟨t, _, (exec_encsz ..).trans ht, hend, by omega⟩
    | enc =>
      obtain ⟨t, ht, hend⟩ := exec_enc_ends c a0 a1 a2 a3 s
      exact ⟨t, _, ht, hend, by omega⟩
    | decsz =>
      have hprod : a3 * chunkSizeOf c ≤ a3 * 5 := Nat.mul_le_mul_left _ (chunkSizeOf_le_five c)
      obtain ⟨t, ht, hend⟩ := decodedSize_ends (codecCommand .decsz c a0 a1 a2 a3) (chunkSizeOf c) a3 s
      exact ⟨t, _, (exec_decsz ..).trans ht, hend, by omega⟩
    | dec =>
      obtain ⟨t, ht, hend⟩ := exec_dec_ends c a0 a1 a2 a3 s
      exact ⟨t, _, ht, hend, by omega⟩
  | tritnew d a1 a2 v =>
    obtain ⟨t, ht, hend⟩ := exec_tritnew_ends d a1 a2 v s
    exact ⟨t, _, ht, hend, fun _ => Nat.two_pow_pos _⟩

/-- The same for a next state at hand. -/
theorem commandEnd_of_exec {i : Instr} (h : exec i s = .next t) :
    ∃ max, CommandEnd i max s t ∧ (i.WellFormed s.cfg.addrW → max < 2 ^ (s.cfg.addrW + 3)) := by
  obtain ⟨t', max, ht', hend, hfits⟩ := exec_ends i s
  obtain rfl : t' = t := by simpa [h] using ht'.symm
  exact ⟨max, hend, hfits⟩

/-- A command adds one response to the record, advances the index by one and leaves the parameters and the
stream alone (10_state R21, R28). -/
theorem CommandEnd.returnsOne {i : Instr} {max : Nat} (h : CommandEnd i max s t) :
    (∃ c, t.trace = s.trace ++ [c]) ∧ t.cidx = s.cidx + 1 ∧ t.cfg = s.cfg ∧ t.stream = s.stream := by
  cases h with
  | responds hchange =>
    obtain ⟨hcfg, hstream, hcidx, htrace, -⟩ := hchange.keeps
    simp [hcfg, hstream, hcidx, htrace]
  | uninit => exact ⟨⟨_, rfl⟩, rfl, rfl, rfl⟩

/-- Settles O11: every command ends with a response. -/
theorem everyCommandReturnsOneResponse : Obligations.EveryCommandReturnsOneResponse := by
  intro i s
  obtain ⟨t, max, ht, hend, -⟩ := exec_ends i s
  obtain ⟨⟨c, htrace⟩, hrest⟩ := hend.returnsOne
  exact ⟨t, c, ht, htrace, hrest⟩

/-- A command whose source is written returns a response in the format of 10_state R28. -/
theorem CommandEnd.response {i : Instr} {max : Nat} {c : Completion} (h : CommandEnd i max s t) (hsource : SourceWritten i s)
    (htrace : t.trace = s.trace ++ [c]) : c.response.count ≤ max ∧ (c.response.status ≠ .ok → c.response.count = 0) := by
  cases h with
  | responds hchange hmax hok =>
    obtain ⟨-, -, -, hrecord, -⟩ := hchange.keeps
    obtain rfl : _ = c := by simpa [hrecord] using htrace
    exact ⟨hmax, hok⟩
  | uninit _ hunwritten => exact absurd hsource hunwritten

theorem Status.code_ne_three (st : Status) : st.code ≠ 3 := by cases st <;> decide

/-- A DEC.c or TRITNEW ends with COUNT 0, if its source is written. -/
theorem commandEnd_zero_of_exec {i : Instr}
    (hi : (∃ cd a0 a1 a2 a3, i = codecCommand .dec cd a0 a1 a2 a3) ∨ ∃ a0 a1 a2 a3, i = .tritnew a0 a1 a2 a3)
    (h : exec i s = .next t) : CommandEnd i 0 s t := by
  obtain ⟨t', ht', hend⟩ : ∃ t', exec i s = .next t' ∧ CommandEnd i 0 s t' := by
    obtain ⟨cd, a0, a1, a2, a3, rfl⟩ | ⟨a0, a1, a2, a3, rfl⟩ := hi
    · exact exec_dec_ends ..
    · exact exec_tritnew_ends ..
  obtain rfl : t' = t := by simpa [h] using ht'.symm
  exact hend

/-- Settles O41: COUNT is at most the bound of the command's operation, which is 0 for DEC.c and TRITNEW. -/
theorem responsesKeepTheirFormat : Obligations.ResponsesKeepTheirFormat := by
  intro i s t c hwf hsource hexec htrace
  obtain ⟨max, hend, hfits⟩ := commandEnd_of_exec hexec
  obtain ⟨hmax, hok⟩ := hend.response hsource htrace
  refine ⟨c.response.status.code_ne_three, hmax.trans_lt (hfits hwf), hok, fun hi => ?_⟩
  exact Nat.le_zero.mp ((commandEnd_zero_of_exec hi hexec).response hsource htrace).1

end Sys2Proof.Machine
end

section
/-! SUPPORT. Written cells stay written, whatever a command does (10_state R25). -/

namespace Sys2Proof.Machine

section
variable {α : Type} {m m' m'' : Space α}

/-- Every written cell of `m` is written in `m'`. -/
def KeepsWritten (m m' : Space α) : Prop := ∀ a, cellRead m a ≠ none → cellRead m' a ≠ none

theorem KeepsWritten.refl (m : Space α) : KeepsWritten m m := fun _ h => h

theorem KeepsWritten.trans (h : KeepsWritten m m') (h' : KeepsWritten m' m'') : KeepsWritten m m'' :=
  fun a ha => h' a (h a ha)

theorem cellWrite_keepsWritten (m : Space α) (a : Nat) (v : α) : KeepsWritten m (cellWrite m a v) := by
  intro b hb
  rw [cellRead_cellWrite]
  split_ifs
  · exact Option.some_ne_none v
  · exact hb

theorem cellClobber_keepsWritten (m : Space α) (a : Nat) : ∀ d : Option α, KeepsWritten m (cellClobber m a d)
  | none => .refl m
  | some v => cellWrite_keepsWritten m a v

theorem regionWrite_keepsWritten (vs : List α) : ∀ (m : Space α) (a : Nat), KeepsWritten m (regionWrite m a vs) := by
  induction vs with
  | nil => exact fun m _ => .refl m
  | cons v vs ih => exact fun m a => (cellWrite_keepsWritten m a v).trans (ih _ _)

theorem regionClobber_keepsWritten (draw : Nat → Option α) (n : Nat) :
    ∀ (m : Space α) (a k : Nat), KeepsWritten m (regionClobber draw m a k n) := by
  induction n with
  | zero => exact fun m _ _ => .refl m
  | succ n ih => exact fun m a k => (cellClobber_keepsWritten m a (draw k)).trans (ih _ _ _)

end

variable {s u t : State}

theorem RegionChange.keepsWritten (h : RegionChange s u) : KeepsWritten s.T u.T ∧ KeepsWritten s.B u.B := by
  cases h with
  | unchanged => exact ⟨.refl _, .refl _⟩
  | clobberT => exact ⟨regionClobber_keepsWritten _ _ _ _ _, .refl _⟩
  | clobberB => exact ⟨.refl _, regionClobber_keepsWritten _ _ _ _ _⟩
  | storeTrits => exact ⟨regionWrite_keepsWritten _ _ _, .refl _⟩
  | storeBytes => exact ⟨.refl _, regionWrite_keepsWritten _ _ _⟩

theorem CommandEnd.keepsWritten {i : Instr} {max : Nat} (h : CommandEnd i max s t) :
    KeepsWritten s.T t.T ∧ KeepsWritten s.B t.B := by
  cases h with
  | responds hchange => exact hchange.keepsWritten
  | uninit =>
    obtain ⟨hfirst, hsecond⟩ := clobberAll_changes s
    exact ⟨hfirst.keepsWritten.1.trans hsecond.keepsWritten.1, hfirst.keepsWritten.2.trans hsecond.keepsWritten.2⟩

/-- Settles O37: a command only writes cells, or leaves them. -/
theorem writtenCellsStayWritten : Obligations.WrittenCellsStayWritten := by
  intro i s t a hexec
  obtain ⟨_, hend, -⟩ := commandEnd_of_exec hexec
  exact hend.keepsWritten.imp (· a) (· a)

end Sys2Proof.Machine
end

section
/-! SUPPORT. The invariant along a run: every step keeps it, the host's writes keep it, and so a run reaches the end of its stream. -/

namespace Sys2Proof.Machine

variable {s u t : State}

/-! ## Steps -/

/-- A region inside its space can be changed in canonical form. -/
theorem RegionChange.inv (h : RegionChange s u) (hs : s.Inv) : u.Inv := by
  cases h with
  | unchanged => exact hs
  | clobberT hfit =>
    exact { hs with tCanonical := regionClobber_wf _ _ hs.tCanonical _ _
                    tInside := regionClobber_inside_space _ _ hs.tInside hfit _ }
  | clobberB hfit =>
    exact { hs with bCanonical := regionClobber_wf _ _ hs.bCanonical _ _
                    bInside := regionClobber_inside_space _ _ hs.bInside hfit _ }
  | storeTrits hfit =>
    exact { hs with tCanonical := regionWrite_wf _ hs.tCanonical _
                    tInside := regionWrite_inside_space _ hs.tInside hfit }
  | storeBytes hfit =>
    exact { hs with bCanonical := regionWrite_wf _ hs.bCanonical _
                    bInside := regionWrite_inside_space _ hs.bInside hfit }

/-- Returning a response keeps the invariant when a command was left, COUNT fits, and the mark `f` after it names this command or an
earlier one; a COUNT other than 0 needs OK only while there is no mark. -/
theorem finish_inv_of_mark {r : Response} {cause : Option Cause} {f : Option ModelFault} {draws : Nat} (hs : s.Inv)
    (hleft : s.cidx < s.stream.length) (hfits : r.count < 2 ^ (s.cfg.addrW + 3))
    (hok : f = none → s.faultMark = none ∧ (r.status ≠ .ok → r.count = 0))
    (hmark : ∀ sp k a, f = some (.uninitRead sp k a) → k ≤ s.cidx ∧ a < spaceSize s.cfg sp) :
    (finish r cause { s with faultMark := f, draws := draws }).Inv :=
  { hs with
    onePerCommand := by simp [hs.onePerCommand]
    index := hleft
    countFits := by
      simpa [or_imp, forall_and] using ⟨hs.countFits, hfits⟩
    countOnlyOk := fun hnone => by
      obtain ⟨hbefore, hzero⟩ := hok hnone
      simpa [or_imp, forall_and] using ⟨hs.countOnlyOk hbefore, hzero⟩
    markEarlier := fun sp k a h => (hmark sp k a h).imp_left Nat.lt_succ_of_le }

/-- The same when the mark stays as it is. -/
theorem finish_inv {r : Response} {cause : Option Cause} (hs : s.Inv) (hleft : s.cidx < s.stream.length)
    (hfits : r.count < 2 ^ (s.cfg.addrW + 3)) (hok : r.status ≠ .ok → r.count = 0) : (finish r cause s).Inv :=
  finish_inv_of_mark hs hleft hfits (fun hnone => ⟨hnone, hok⟩) fun sp k a h =>
    (hs.markEarlier sp k a h).imp_left Nat.le_of_lt

/-- The mark after a model fault of this command names it or an earlier one (60_exceptions R121). -/
theorem firstFault_names {sp sp' : SpaceName} {a a' k : Nat} (hs : s.Inv) (hcell : a < spaceSize s.cfg sp)
    (h : some (firstFault s.faultMark (.uninitRead sp s.cidx a)) = some (.uninitRead sp' k a')) :
    k ≤ s.cidx ∧ a' < spaceSize s.cfg sp' := by
  cases hm : s.faultMark with
  | none =>
    rw [hm] at h
    cases h
    exact ⟨le_rfl, hcell⟩
  | some f =>
    rw [hm] at h
    cases h
    exact (hs.markEarlier _ _ _ hm).imp_left Nat.le_of_lt

theorem freeResponse_fits (c : Config) (draw : Nat) : (freeResponse c draw).count < 2 ^ (c.addrW + 3) :=
  Nat.mod_lt _ (Nat.two_pow_pos _)

theorem CommandEnd.inv {i : Instr} {max : Nat} (h : CommandEnd i max s t) (hs : s.Inv) (hleft : s.cidx < s.stream.length)
    (hfits : max < 2 ^ (s.cfg.addrW + 3)) : t.Inv := by
  cases h with
  | responds hchange hmax hok =>
    obtain ⟨hcfg, hstream, hcidx, -, -⟩ := hchange.keeps
    exact finish_inv (hchange.inv hs) (by rwa [hcidx, hstream]) (by rw [hcfg]; exact hmax.trans_lt hfits) hok
  | uninit hcell =>
    obtain ⟨hfirst, hsecond⟩ := clobberAll_changes s
    exact finish_inv_of_mark (hsecond.inv (hfirst.inv hs)) hleft (freeResponse_fits ..) (fun h => nomatch h)
      fun _ _ _ => firstFault_names hs hcell

/-- Settles O50: a decoded command is well formed, so its COUNT fits; an illegal OP changes no cell and returns COUNT 0. -/
theorem stepsKeepTheInvariant : Obligations.StepsKeepTheInvariant := by
  intro s t hs hstep
  obtain ⟨w, hw, hcases⟩ := step_next_cases hstep
  obtain ⟨hleft, -⟩ := List.getElem?_eq_some_iff.mp hw
  obtain ⟨i, hdecode, hexec⟩ | ⟨op, -, rfl⟩ := hcases
  · obtain ⟨max, hend, hfits⟩ := commandEnd_of_exec hexec
    exact hend.inv hs hleft (hfits (wellFormed_of_decode hdecode))
  · exact finish_inv hs hleft (Nat.two_pow_pos _) fun _ => rfl

/-! ## Runs -/

/-- While a command is left, a step answers a next state and takes one command (10_state R21). -/
theorem step_of_commandLeft (hs : s.Inv) (hleft : s.cidx < s.stream.length) :
    ∃ t, step s = .next t ∧ t.stream = s.stream ∧ t.cidx = s.cidx + 1 := by
  obtain ⟨w, hw⟩ : ∃ w, s.stream[s.cidx]? = some w := ⟨_, List.getElem?_eq_getElem hleft⟩
  obtain ⟨i, hdecode⟩ | ⟨op, hdecode⟩ := decode_of_descriptor (hs.stream w (List.mem_of_getElem? hw))
  · obtain ⟨t, max, hexec, hend, -⟩ := exec_ends i s
    obtain ⟨-, hcidx, -, hstream⟩ := hend.returnsOne
    exact ⟨t, (stepRunsTheDecodedCommand s w i hw hdecode).trans hexec, hstream, hcidx⟩
  · exact ⟨finish ⟨.illegal, 0⟩ (some (.illegal .opcode)) s,
      by simp [step, nextDescriptor, hw, hdecode, rejectDescriptor, raiseIllegal], rfl, rfl⟩

/-- A run of as many steps as commands are left takes them all. -/
theorem run_takesCommandsLeft (n : Nat) : ∀ s : State, s.Inv → s.stream.length - s.cidx = n →
    ∃ t : State, Host.Core.run Sys2Proof.core n s = .next t ∧ t.stream = s.stream ∧ t.cidx = s.stream.length := by
  induction n with
  | zero =>
    intro s hs hn
    have hindex := hs.index
    exact ⟨s, rfl, rfl, by omega⟩
  | succ n ih =>
    intro s hs hn
    obtain ⟨u, hstep, hstream, hcidx⟩ := step_of_commandLeft hs (by omega)
    obtain ⟨t, hrun, htstream, htcidx⟩ := ih u (stepsKeepTheInvariant s u hs hstep) (by rw [hstream, hcidx]; omega)
    refine ⟨t, ?_, htstream.trans hstream, by rw [htcidx, hstream]⟩
    simpa [Host.Core.run, Sys2Proof.core, hstep] using hrun

/-- Settles O14: the run takes every command left, and with no mark its last state is final. -/
theorem runsReachTheEndOfTheStream : Obligations.RunsReachTheEndOfTheStream := by
  intro s hs
  obtain ⟨t, hrun, hstream, hcidx⟩ := run_takesCommandsLeft _ s hs rfl
  refine ⟨t, hrun, hstream, hcidx, ?_⟩
  by_cases hmark : t.faultMark = none
  · exact .inl ⟨by rw [hcidx, hstream], hmark⟩
  · exact .inr hmark

/-! ## The host's writes -/

/-- Settles O51: a cell of the space is written in canonical form. -/
theorem hostWritesKeepTheInvariant : Obligations.HostWritesKeepTheInvariant := by
  refine ⟨fun a v s t hs hwrite => ?_, fun a v s t hs hwrite => ?_⟩
  · unfold hostWriteT at hwrite
    split_ifs at hwrite with ha
    cases hwrite
    exact { hs with tCanonical := cellWrite_wf hs.tCanonical a v, tInside := cellWrite_inside hs.tInside ha v }
  · unfold hostWriteB at hwrite
    split_ifs at hwrite with ha
    cases hwrite
    exact { hs with bCanonical := cellWrite_wf hs.bCanonical a v, bInside := cellWrite_inside hs.bInside ha v }

end Sys2Proof.Machine
end

section
/-! SUPPORT. What a command depends on: the parameters, T, B and the draw counter, and nothing else (10_state R18, R19, R20). -/

namespace Sys2Proof.Machine

variable {s s' : State}

/-- The two states agree on all a command may read; the index, the record, the mark and the stream are free. -/
structure SameEngine (s s' : State) : Prop where
  cfg : s'.cfg = s.cfg
  T : s'.T = s.T
  B : s'.B = s.B
  draws : s'.draws = s.draws

/-- The two answers leave the same T, B and draw counter and return the same response. -/
def SameEffect (a a' : Answer) : Prop :=
  ∀ t t', a = .next t → a' = .next t' →
    t'.T = t.T ∧ t'.B = t.B ∧ t'.draws = t.draws ∧ t'.trace.getLast? = t.trace.getLast?

theorem SameEngine.clobberT (h : SameEngine s s') (a n : Nat) : SameEngine (clobberT a n s) (clobberT a n s') :=
  ⟨h.cfg, by simp [h.T, h.draws], h.B, by simp [h.draws]⟩

theorem SameEngine.clobberB (h : SameEngine s s') (a n : Nat) : SameEngine (clobberB a n s) (clobberB a n s') :=
  ⟨h.cfg, h.T, by simp [h.B, h.draws], by simp [h.draws]⟩

theorem SameEngine.storeTrits (h : SameEngine s s') (a : Nat) (vs : List Trit) :
    SameEngine (storeTrits a vs s) (storeTrits a vs s') :=
  ⟨h.cfg, by simp [h.T], h.B, h.draws⟩

theorem SameEngine.storeBytes (h : SameEngine s s') (a : Nat) (vs : List Byte) :
    SameEngine (storeBytes a vs s) (storeBytes a vs s') :=
  ⟨h.cfg, h.T, by simp [h.B], h.draws⟩

/-- Returning the same response from states that agree has the same effect, whatever the record and the index are. -/
theorem SameEngine.finish (h : SameEngine s s') (r : Response) (cause : Option Cause) :
    SameEffect (.next (finish r cause s)) (.next (finish r cause s')) := by
  rintro _ _ ⟨⟩ ⟨⟩
  simp [h.T, h.B, h.draws]

theorem SameEngine.raiseUninit (h : SameEngine s s') (sp : SpaceName) (a : Nat) :
    SameEffect (raiseUninit sp a s) (raiseUninit sp a s') := by
  rintro _ _ ⟨⟩ ⟨⟩
  simp [h.cfg, h.T, h.B, h.draws]

theorem SameEngine.encodeSlice (h : SameEngine s s') (c : Codec) (d cap src n : Nat) :
    SameEffect (encodeSlice c d cap src n s) (encodeSlice c d cap src n s') := by
  unfold Machine.encodeSlice
  rw [h.cfg, h.T]
  split_ifs
  · exact (h.clobberB d cap).finish _ _
  · cases regionRead s.T src n with
    | error a => exact h.raiseUninit .T a
    | ok trits => exact (h.storeBytes d _).finish _ _
  · exact h.finish _ _

theorem SameEngine.decodeSlice (h : SameEngine s s') (c : Codec) (d k src m : Nat) :
    SameEffect (decodeSlice c d k src m s) (decodeSlice c d k src m s') := by
  unfold Machine.decodeSlice
  rw [h.cfg, h.B]
  split_ifs
  · exact (h.clobberT d k).finish _ _
  · cases regionRead s.B src (decReadCount s.cfg c.chunkN k m) with
    | error a => exact h.raiseUninit .B a
    | ok b =>
      simp only
      split_ifs
      · exact (h.storeTrits d _).finish _ _
      · exact (h.clobberT d k).finish _ _
  · exact h.finish _ _

theorem SameEngine.execTritnew (h : SameEngine s s') (d a1 a2 v : Nat) :
    SameEffect (execTritnew d a1 a2 v s) (execTritnew d a1 a2 v s') := by
  unfold Machine.execTritnew
  rw [h.cfg]
  split_ifs
  · exact h.finish _ _
  · exact (h.storeTrits d _).finish _ _
  · exact h.finish _ _

theorem SameEngine.exec (h : SameEngine s s') (i : Instr) : SameEffect (exec i s) (exec i s') := by
  induction i using instr_cases with
  | codec f c a0 a1 a2 a3 =>
    cases f with
    | encsz =>
      rw [exec_encsz, exec_encsz]
      exact h.finish _ _
    | enc =>
      rw [exec_enc, exec_enc, h.cfg]
      exact h.encodeSlice _ _ _ _ _
    | decsz =>
      rw [exec_decsz, exec_decsz]
      exact h.finish _ _
    | dec =>
      rw [exec_dec, exec_dec, h.cfg]
      exact h.decodeSlice _ _ _ _ _
  | tritnew d a1 a2 v => exact h.execTritnew d a1 a2 v

/-- Settles O12: each operation reads the parameters, T, B and the draw counter only. -/
theorem nothingOfACommandSurvivesInTheEngine : Obligations.NothingOfACommandSurvivesInTheEngine :=
  fun i _ _ t t' hcfg hT hB hdraws => (SameEngine.mk hcfg hT hB hdraws).exec i t t'

end Sys2Proof.Machine
end

section
/-! SUPPORT. What the host places and writes: the next descriptor, a cell, a reset, a launch (10_state R26, R27;
70_reset_and_hazards R133). -/

namespace Sys2Proof.Machine

theorem placeAt_getElem? (stream : List Nat) (k w : Nat) : (placeAt stream k w)[k]? = some w := by
  have hlen : (stream.take k ++ List.replicate (k - stream.length) 0).length = k := by simp; omega
  rw [placeAt, List.getElem?_append_right hlen.le]
  simp [hlen]

theorem decode_of_decodeTableWord {nbits w : Nat} {i : Instr} (h : decodeTableWord nbits w = some i) :
    decode 16 (w % 2 ^ nbits) = .ok i := by
  unfold decodeTableWord at h
  split at h
  next j hdecode =>
    cases h
    exact hdecode
  next => cases h

/-- Settles O10: the placed descriptor stands at the index of the next command. -/
theorem placedDescriptorRunsNext : Obligations.PlacedDescriptorRunsNext := by
  intro s nbits w i hwidth htable
  refine ⟨stepRunsTheDecodedCommand _ _ i (placeAt_getElem? ..) ?_, rfl⟩
  rw [withFetchWord_cfg, hwidth]
  exact decode_of_decodeTableWord htable

/-- Settles O46, from the fields of the power-on state and of a launch. -/
theorem resetLeavesWhatTheSpecSays : Obligations.ResetLeavesWhatTheSpecSays :=
  ⟨fun _ => ⟨rfl, rfl⟩, rfl, rfl, fun _ => rfl, fun _ _ => ⟨rfl, rfl, rfl, rfl, rfl⟩⟩

theorem cellWrite_sameOutside {α : Type} (m : Space α) (a : Nat) (v : α) : SameOutside m (cellWrite m a v) a 1 :=
  regionWrite_sameOutside m a [v]

/-- Settles O47: inside the space the write is one cell write, outside it is a fault. -/
theorem hostWritesReachExactlyOneCell : Obligations.HostWritesReachExactlyOneCell := by
  refine ⟨fun a v s => ⟨fun ha => ?_, fun ha => if_neg (Nat.not_lt.mpr ha)⟩,
    fun a v s => ⟨fun ha => ?_, fun ha => if_neg (Nat.not_lt.mpr ha)⟩⟩
  · exact ⟨cellWrite s.T a v, if_pos ha, cellRead_cellWrite_same .., cellWrite_sameOutside _ _ _,
      by simp [hostReadT, ha, cellRead_cellWrite_same]⟩
  · exact ⟨cellWrite s.B a v, if_pos ha, cellRead_cellWrite_same .., cellWrite_sameOutside _ _ _,
      by simp [hostReadB, ha, cellRead_cellWrite_same]⟩

end Sys2Proof.Machine
end

section
/-! SUPPORT. A command with a written source: the parameters, T and B fix its response and the change it makes, which stays inside its
destination (20_memory R34, R36; 40_contract R62). -/

namespace Sys2Proof.Machine

/-! ## Regions -/

section
variable {α : Type} {m m' : Space α}

theorem SameOutside.refl (m : Space α) (a n : Nat) : SameOutside m m a n := fun _ _ => rfl

theorem SameOutside.mono {a n n' : Nat} (h : SameOutside m m' a n) (hn : n ≤ n') : SameOutside m m' a n' :=
  fun x hx => h x (by omega)

theorem regionClobber_sameOutside (draw : Nat → Option α) (m : Space α) (a k n : Nat) :
    SameOutside m (regionClobber draw m a k n) a n :=
  fun x hx => regionClobber_outside draw n m a k x hx

/-- Reading a region that is written answers as many values as it has cells. -/
theorem regionRead_ok_of_written {a n : Nat} (h : ∀ j < n, ∃ v, cellRead m (a + j) = some v) :
    ∃ vs, regionRead m a n = .ok vs ∧ vs.length = n := by
  obtain ⟨vs, hread, hlen, -⟩ | ⟨j, hj, -, hnone, -⟩ := regionRead_cases m n a
  · exact ⟨vs, hread, hlen⟩
  · obtain ⟨v, hv⟩ := h j hj
    simp [hnone] at hv

end

/-! ## Changes inside a destination -/

/-- A change a command with response `r` may make before it responds, when its destination is `dT` in T and `dB` in B (base and length): it
writes at most that region, and clobbers it only to FAIL (40_contract R61, R62). -/
inductive DestinationChange (dT dB : Nat × Nat) (r : Response) : (State → State) → Prop
  | unchanged : DestinationChange dT dB r id
  | clobberT (hfail : r.status = .fail) : DestinationChange dT dB r (clobberT dT.1 dT.2)
  | clobberB (hfail : r.status = .fail) : DestinationChange dT dB r (clobberB dB.1 dB.2)
  | storeTrits {vs : List Trit} (hfit : vs.length ≤ dT.2) : DestinationChange dT dB r (storeTrits dT.1 vs)
  | storeBytes {vs : List Byte} (hfit : vs.length ≤ dB.2) : DestinationChange dT dB r (storeBytes dB.1 vs)

section
variable {dT dB : Nat × Nat} {r : Response} {change : State → State}

theorem DestinationChange.keeps (h : DestinationChange dT dB r change) (s : State) :
    (change s).cfg = s.cfg ∧ (change s).stream = s.stream ∧ (change s).trace = s.trace ∧
      (change s).faultMark = s.faultMark := by
  cases h <;> exact ⟨rfl, rfl, rfl, rfl⟩

theorem DestinationChange.sameOutside (h : DestinationChange dT dB r change) (s : State) :
    SameOutside s.T (change s).T dT.1 dT.2 ∧ SameOutside s.B (change s).B dB.1 dB.2 := by
  cases h with
  | unchanged => exact ⟨.refl _ _ _, .refl _ _ _⟩
  | clobberT => exact ⟨regionClobber_sameOutside _ _ _ _ _, .refl _ _ _⟩
  | clobberB => exact ⟨.refl _ _ _, regionClobber_sameOutside _ _ _ _ _⟩
  | storeTrits hfit => exact ⟨(regionWrite_sameOutside _ _ _).mono hfit, .refl _ _ _⟩
  | storeBytes hfit => exact ⟨.refl _ _ _, (regionWrite_sameOutside _ _ _).mono hfit⟩

/-- Only a clobber uses the draws, so without a FAIL the same T and B become the same T and B. -/
theorem DestinationChange.sameMemory (h : DestinationChange dT dB r change) (hr : r.status ≠ .fail) {s s' : State}
    (hT : s'.T = s.T) (hB : s'.B = s.B) : (change s').T = (change s).T ∧ (change s').B = (change s).B := by
  cases h with
  | unchanged => exact ⟨hT, hB⟩
  | clobberT hfail | clobberB hfail => exact absurd hfail hr
  | storeTrits | storeBytes => simp [hT, hB]

end

/-! ## What the operations do on a written source -/

/-- From every state with the parameters, T and B of `s`, the operation returns one and the same response, after one and the same change
inside its destination. -/
def FixedByMemory (op : State → Answer) (s : State) (dT dB : Nat × Nat) : Prop :=
  ∃ r cause change, DestinationChange dT dB r change ∧
    ∀ s', s'.cfg = s.cfg → s'.T = s.T → s'.B = s.B → op s' = .next (finish r cause (change s'))

section
variable {s : State} {dT dB : Nat × Nat}

/-- An operation may depend on the parameters through the codec it runs. -/
theorem FixedByMemory.of_cfg {op op' : State → Answer} (h : FixedByMemory op s dT dB)
    (hop : ∀ s', s'.cfg = s.cfg → op' s' = op s') : FixedByMemory op' s dT dB := by
  obtain ⟨r, cause, change, hchange, hend⟩ := h
  exact ⟨r, cause, change, hchange, fun s' hcfg hT hB => (hop s' hcfg).trans (hend s' hcfg hT hB)⟩

theorem respondOk_fixedByMemory (count : Nat) : FixedByMemory (respondOk count) s dT dB :=
  ⟨_, _, _, .unchanged, fun _ _ _ _ => rfl⟩

theorem encodeSlice_fixedByMemory (c : Codec) (d cap src n : Nat) (hsource : ∀ j < n, ∃ v, cellRead s.T (src + j) = some v) :
    FixedByMemory (encodeSlice c d cap src n) s dT (d, cap) := by
  by_cases hb : encInBounds s.cfg d cap src n = true
  · by_cases hcap : cap < ceilDiv n c.chunkN
    · exact ⟨_, _, _, .clobberB rfl, fun s' hcfg _ _ => by rw [encodeSlice, hcfg, if_pos hb, if_pos hcap]; rfl⟩
    · obtain ⟨trits, hread, rfl⟩ := regionRead_ok_of_written hsource
      refine ⟨⟨.ok, ceilDiv trits.length c.chunkN⟩, none, storeBytes d (encodeTrits c trits),
        .storeBytes (by simpa using hcap), fun s' hcfg hT _ => ?_⟩
      rw [encodeSlice, hcfg, hT, if_pos hb, if_neg hcap, hread]
      rfl
  · exact ⟨_, _, _, .unchanged, fun s' hcfg _ _ => by rw [encodeSlice, hcfg, if_neg hb]; rfl⟩

theorem decodeSlice_fixedByMemory (c : Codec) (d k src m : Nat)
    (hsource : ∀ j < decReadCount s.cfg c.chunkN k m, ∃ v, cellRead s.B (src + j) = some v) :
    FixedByMemory (decodeSlice c d k src m) s (d, k) dB := by
  by_cases hb : decInBounds s.cfg d k src m = true
  · by_cases hcap : m * c.chunkN < k
    · exact ⟨_, _, _, .clobberT rfl, fun s' hcfg _ _ => by rw [decodeSlice, hcfg, if_pos hb, if_pos hcap]; rfl⟩
    · obtain ⟨b, hread, -⟩ := regionRead_ok_of_written hsource
      by_cases hvalid : b.all c.valid = true
      · refine ⟨⟨.ok, 0⟩, none, storeTrits d ((decodeBytes c (b.take (ceilDiv k c.chunkN))).take k),
          .storeTrits (List.length_take_le ..), fun s' hcfg _ hB => ?_⟩
        rw [decodeSlice, hcfg, hB, if_pos hb, if_neg hcap, hread]
        exact if_pos hvalid
      · refine ⟨⟨.fail, 0⟩, some (.fail .invalidCodepoint), clobberT d k, .clobberT rfl, fun s' hcfg _ hB => ?_⟩
        rw [decodeSlice, hcfg, hB, if_pos hb, if_neg hcap, hread]
        exact if_neg hvalid
  · exact ⟨_, _, _, .unchanged, fun s' hcfg _ _ => by rw [decodeSlice, hcfg, if_neg hb]; rfl⟩

theorem execTritnew_fixedByMemory (d a1 a2 v : Nat) : FixedByMemory (execTritnew d a1 a2 v) s (d, 1) dB := by
  by_cases hb : tritnewInBounds s.cfg d = true
  · by_cases hv : 3 ≤ v
    · exact ⟨_, _, _, .unchanged, fun s' hcfg _ _ => by rw [execTritnew, hcfg, if_pos hb, if_pos hv]; rfl⟩
    · exact ⟨_, _, _, .storeTrits (vs := [tritOf v]) le_rfl, fun s' hcfg _ _ => by
        rw [execTritnew, hcfg, if_pos hb, if_neg hv]; rfl⟩
  · exact ⟨_, _, _, .unchanged, fun s' hcfg _ _ => by rw [execTritnew, hcfg, if_neg hb]; rfl⟩

end

/-! ## Commands -/

@[simp] theorem destinationB_enc (c : CodecName) (d cap src n : Nat) :
    destinationB (codecCommand .enc c d cap src n) = (d, cap) := by cases c <;> rfl

@[simp] theorem destinationT_dec (c : CodecName) (d k src m : Nat) :
    destinationT (codecCommand .dec c d k src m) = (d, k) := by cases c <;> rfl

theorem exec_fixedByMemory {i : Instr} {s : State} (hsource : SourceWritten i s) :
    FixedByMemory (exec i) s (destinationT i) (destinationB i) := by
  induction i using instr_cases with
  | codec f c a0 a1 a2 a3 =>
    obtain ⟨hsourceT, hsourceB⟩ := hsource
    cases f with
    | encsz => exact (respondOk_fixedByMemory _).of_cfg fun s' _ => exec_encsz c a0 a1 a2 a3 s'
    | enc =>
      rw [destinationB_enc]
      rw [sourceT_enc] at hsourceT
      exact (encodeSlice_fixedByMemory (codecOf s.cfg c) a0 a1 a2 a3 hsourceT).of_cfg fun s' hcfg => by rw [exec_enc, hcfg]
    | decsz => exact (respondOk_fixedByMemory _).of_cfg fun s' _ => exec_decsz c a0 a1 a2 a3 s'
    | dec =>
      rw [destinationT_dec]
      rw [sourceB_dec, bytesRead, ← codecOf_chunkN s.cfg c] at hsourceB
      exact (decodeSlice_fixedByMemory (codecOf s.cfg c) a0 a1 a2 a3 hsourceB).of_cfg fun s' hcfg => by rw [exec_dec, hcfg]
  | tritnew d a1 a2 v => exact execTritnew_fixedByMemory d a1 a2 v

/-- Settles O13: T and B fix the response and the change, and only the change of a FAIL uses the draws. -/
theorem commandsArePureFunctionsOfTAndB : Obligations.CommandsArePureFunctionsOfTAndB := by
  intro i s s' t t' c hcfg hT hB hsource hexec hexec' htrace
  obtain ⟨r, cause, change, hchange, hend⟩ := exec_fixedByMemory hsource
  obtain rfl : finish r cause (change s) = t := by simpa [hend s rfl rfl rfl] using hexec
  obtain rfl : finish r cause (change s') = t' := by simpa [hend s' hcfg hT hB] using hexec'
  obtain rfl : ⟨r, cause⟩ = c := by simpa [hchange.keeps] using htrace
  exact ⟨by simp [hchange.keeps], fun hr => hchange.sameMemory hr hT hB⟩

/-- Settles O36: the change stays inside the destination, and the response changes no cell. -/
theorem commandsKeepEverythingOutsideTheDestination : Obligations.CommandsKeepEverythingOutsideTheDestination := by
  intro i s t hsource hexec
  obtain ⟨r, cause, change, hchange, hend⟩ := exec_fixedByMemory hsource
  obtain rfl : finish r cause (change s) = t := by simpa [hend s rfl rfl rfl] using hexec
  obtain ⟨hcfg, hstream, -, hmark⟩ := hchange.keeps s
  exact ⟨hcfg, hstream, hmark, hchange.sameOutside s⟩

end Sys2Proof.Machine
end

section
/-! SUPPORT. The packed descriptor: its bit fields, and that the decoder and the encoder are inverse to each other
(30_encoding R44, R45, R46, R49). -/

namespace Sys2Proof.Machine

/-! ## Bit fields -/

/-- A field above the low `lo` bits does not see them. -/
theorem bitField_add_of_lt {x lo : Nat} (hx : x < 2 ^ lo) (y k width : Nat) :
    bitField (x + 2 ^ lo * y) (lo + k) width = bitField y k width := by
  rw [bitField, bitField, pow_add, ← Nat.div_div_eq_div_mul, Nat.add_mul_div_left _ _ (Nat.two_pow_pos lo),
    Nat.div_eq_of_lt hx, Nat.zero_add]

/-- The lowest field of a packed number. -/
theorem bitField_zero_add {x width : Nat} (hx : x < 2 ^ width) (y : Nat) : bitField (x + 2 ^ width * y) 0 width = x := by
  simp [bitField, Nat.mod_eq_of_lt hx]

/-- A number that fits is its own lowest field. -/
theorem bitField_zero_of_lt {x width : Nat} (hx : x < 2 ^ width) : bitField x 0 width = x := bitField_zero_add hx 0

/-- Two adjacent fields are one. -/
theorem bitField_append (w lo a b : Nat) :
    bitField w lo (a + b) = bitField w lo a + 2 ^ a * bitField w (lo + a) b := by
  rw [bitField, bitField, bitField, pow_add, Nat.mod_mul, pow_add, Nat.div_div_eq_div_mul]

/-! ## Packing -/

/-- The packed number with its fields nested, from OP up. -/
theorem packFields_eq (addrW op a0 a1 a2 a3 : Nat) :
    packFields addrW op a0 a1 a2 a3 =
      op + 2 ^ 8 * (a0 + 2 ^ addrW * (a1 + 2 ^ addrW * (a2 + 2 ^ addrW * a3))) := by
  unfold packFields
  ring

/-- Packing a field below `y` adds its width to the width of `y`. -/
theorem add_two_pow_mul_lt {x y a b : Nat} (hx : x < 2 ^ a) (hy : y < 2 ^ b) : x + 2 ^ a * y < 2 ^ (a + b) :=
  calc x + 2 ^ a * y < 2 ^ a * (y + 1) := by rw [Nat.mul_succ]; omega
    _ ≤ 2 ^ a * 2 ^ b := Nat.mul_le_mul_left _ hy
    _ = 2 ^ (a + b) := (pow_add ..).symm

section
variable {addrW op a0 a1 a2 a3 : Nat}

/-- Fields that fit pack to a descriptor (30_encoding R44). -/
theorem packFields_lt (hop : op < 2 ^ 8) (h0 : a0 < 2 ^ addrW) (h1 : a1 < 2 ^ addrW) (h2 : a2 < 2 ^ addrW)
    (h3 : a3 < 2 ^ addrW) : packFields addrW op a0 a1 a2 a3 < 2 ^ descriptorBits addrW := by
  have hbits : descriptorBits addrW = 8 + (addrW + (addrW + (addrW + addrW))) := by unfold descriptorBits; omega
  rw [packFields_eq, hbits]
  exact add_two_pow_mul_lt hop (add_two_pow_mul_lt h0 (add_two_pow_mul_lt h1 (add_two_pow_mul_lt h2 h3)))

/-- The decoder reads the packed fields back: one field after the other, each above those below it. -/
theorem decode_packFields (hop : op < 2 ^ 8) (h0 : a0 < 2 ^ addrW) (h1 : a1 < 2 ^ addrW) (h2 : a2 < 2 ^ addrW)
    (h3 : a3 < 2 ^ addrW) : decode addrW (packFields addrW op a0 a1 a2 a3) = decodeFields op a0 a1 a2 a3 := by
  rw [decode, if_neg (Nat.not_le.mpr (packFields_lt hop h0 h1 h2 h3)), packFields_eq]
  have e1 : 8 + addrW = 8 + (addrW + 0) := rfl
  have e2 : 8 + 2 * addrW = 8 + (addrW + (addrW + 0)) := by omega
  have e3 : 8 + 3 * addrW = 8 + (addrW + (addrW + (addrW + 0))) := by omega
  congr 1
  · exact bitField_zero_add hop _
  · rw [bitField_add_of_lt hop _ 0, bitField_zero_add h0]
  · rw [e1, bitField_add_of_lt hop, bitField_add_of_lt h0, bitField_zero_add h1]
  · rw [e2, bitField_add_of_lt hop, bitField_add_of_lt h0, bitField_add_of_lt h1, bitField_zero_add h2]
  · rw [e3, bitField_add_of_lt hop, bitField_add_of_lt h0, bitField_add_of_lt h1, bitField_add_of_lt h2,
      bitField_zero_of_lt h3]

end

/-- A descriptor is the packing of its own fields: they cover every bit of it (30_encoding R44). -/
theorem packFields_bitFields {addrW w : Nat} (hw : w < 2 ^ descriptorBits addrW) :
    packFields addrW (bitField w 0 8) (bitField w 8 addrW) (bitField w (8 + addrW) addrW)
      (bitField w (8 + 2 * addrW) addrW) (bitField w (8 + 3 * addrW) addrW) = w := by
  have hbits : descriptorBits addrW = 8 + (addrW + (addrW + (addrW + addrW))) := by unfold descriptorBits; omega
  have e2 : 8 + 2 * addrW = 8 + addrW + addrW := by omega
  have e3 : 8 + 3 * addrW = 8 + addrW + addrW + addrW := by omega
  rw [packFields_eq, e2, e3, ← bitField_append, ← bitField_append, ← bitField_append]
  calc bitField w 0 8 + 2 ^ 8 * bitField w 8 (addrW + (addrW + (addrW + addrW)))
      = bitField w 0 (descriptorBits addrW) := by rw [hbits, bitField_append w 0 8]
    _ = w := bitField_zero_of_lt hw

/-! ## The opcode map -/

/-- Every command has an OP of the map, and its fields decode to it. -/
theorem fieldRoundTrip : ∀ i : Instr, Laws.FieldRoundTrip.Statement i
  | .encszB3 .. => Laws.FieldRoundTrip.encszB3 ..
  | .encszB243 .. => Laws.FieldRoundTrip.encszB243 ..
  | .encszBct .. => Laws.FieldRoundTrip.encszBct ..
  | .encszDpt .. => Laws.FieldRoundTrip.encszDpt ..
  | .encB3 .. => Laws.FieldRoundTrip.encB3 ..
  | .encB243 .. => Laws.FieldRoundTrip.encB243 ..
  | .encBct .. => Laws.FieldRoundTrip.encBct ..
  | .encDpt .. => Laws.FieldRoundTrip.encDpt ..
  | .decszB3 .. => Laws.FieldRoundTrip.decszB3 ..
  | .decszB243 .. => Laws.FieldRoundTrip.decszB243 ..
  | .decszBct .. => Laws.FieldRoundTrip.decszBct ..
  | .decszDpt .. => Laws.FieldRoundTrip.decszDpt ..
  | .decB3 .. => Laws.FieldRoundTrip.decB3 ..
  | .decB243 .. => Laws.FieldRoundTrip.decB243 ..
  | .decBct .. => Laws.FieldRoundTrip.decBct ..
  | .decDpt .. => Laws.FieldRoundTrip.decDpt ..
  | .tritnew .. => Laws.FieldRoundTrip.tritnew ..

/-- Below 0x10, OP names the function in its bits [3:2] and the codec in its bits [1:0] (30_encoding R45). -/
theorem codecCommand_opcode_of_lt {op : Nat} (hop : op < 16) (a0 a1 a2 a3 : Nat) :
    (codecCommand (funcOfNumber (bitField op 2 2)) (codecOfNumber (bitField op 0 2)) a0 a1 a2 a3).opcode = op := by
  interval_cases op <;> rfl

section
variable {op a0 a1 a2 a3 : Nat}

/-- The command the fields decode to has the OP that was decoded. -/
theorem opcode_of_decodeFields {i : Instr} (h : decodeFields op a0 a1 a2 a3 = .ok i) : i.opcode = op := by
  unfold decodeFields at h
  split_ifs at h with hclass htritnew
  · cases h
    exact codecCommand_opcode_of_lt (by omega) ..
  · cases h
    exact htritnew.symm

/-- OP 0x00 to 0x10 are commands (30_encoding R46). -/
theorem decodeFields_of_le (hop : op ≤ 0x10) : ∃ i, decodeFields op a0 a1 a2 a3 = .ok i := by
  unfold decodeFields
  split_ifs
  · exact ⟨_, rfl⟩
  · exact ⟨_, rfl⟩
  · omega

/-- OP 0x11 and above are illegal (30_encoding R49). -/
theorem decodeFields_of_gt (hop : 0x11 ≤ op) : decodeFields op a0 a1 a2 a3 = .error (.illegalOpcode op) := by
  rw [decodeFields, if_neg (by omega), if_neg (by omega)]

end

/-- The OP of a number is its low byte. -/
theorem bitField_opcode (w : Nat) : bitField w 0 8 = w % 256 := by simp [bitField]

/-! ## Decoding and encoding -/

/-- Settles O1: the packed fields are read back, and they decode to the command. -/
theorem decodeOfEncodeIsIdentity : Obligations.DecodeOfEncodeIsIdentity := by
  intro addrW i ⟨h0, h1, h2, h3⟩
  obtain ⟨hmap, hfields⟩ := fieldRoundTrip i
  have hop : i.opcode < 2 ^ 8 := by omega
  exact ⟨packFields_lt hop h0 h1 h2 h3, (decode_packFields hop h0 h1 h2 h3).trans hfields⟩

/-- Settles O2: the command carries the OP and the four words of the descriptor, and these are all its bits. -/
theorem encodeOfDecodeIsIdentity : Obligations.EncodeOfDecodeIsIdentity := by
  intro addrW w i h
  refine ⟨wellFormed_of_decode h, ?_⟩
  unfold decode at h
  split_ifs at h with hw
  rw [encode, opcode_of_decodeFields h, words_of_decodeFields h]
  exact packFields_bitFields (Nat.not_le.mp hw)

/-- Settles O3: the decoder's OP is the low byte, and the map ends at 0x10. -/
theorem opcodeMapIsExactly17Commands : Obligations.OpcodeMapIsExactly17Commands := by
  intro addrW w hw
  rw [decode, if_neg (Nat.not_le.mpr hw), bitField_opcode]
  refine ⟨fun hop => ?_, decodeFields_of_gt⟩
  obtain ⟨i, hi⟩ := decodeFields_of_le hop
  exact ⟨i, hi, opcode_of_decodeFields hi⟩

/-- Settles O4, by running the decoder on each descriptor. -/
theorem listedDescriptorsDecode : Obligations.ListedDescriptorsDecode :=
  ⟨rfl, rfl, rfl, rfl, rfl, rfl, rfl, rfl⟩

/-- A step on a descriptor with an illegal OP is the ILLEGAL answer (30_encoding R49, 60_exceptions R120). -/
theorem step_of_illegalOpcode {s : State} {w op : Nat} (hentry : s.stream[s.cidx]? = some w)
    (hdecode : decode s.cfg.addrW w = .error (.illegalOpcode op)) : step s = raiseIllegal .opcode s := by
  simp only [step, nextDescriptor, hentry, hdecode, rejectDescriptor]

/-- Settles O8: such a descriptor decodes to the illegal opcode error. -/
theorem illegalOpcodeIsAnsweredIllegal : Obligations.IllegalOpcodeIsAnsweredIllegal := by
  intro s w hentry hw hop
  obtain ⟨-, hillegal⟩ := opcodeMapIsExactly17Commands s.cfg.addrW w hw
  exact step_of_illegalOpcode hentry (hillegal hop)

end Sys2Proof.Machine
end

section
/-! SUPPORT. The forms of the assembler, its pseudo-instructions and the operands it refuses (30_encoding R50, R51). -/

namespace Sys2Proof.Machine

/-! ## Operands of no form -/

/-- ENC.c and ENC1.c take a destination in B and a source in T only. -/
theorem asmForm_enc_eq_none (c : CodecName) (len n : Nat) {dst src : AsmOperand}
    (h : ¬ ((∃ d, dst = .bBase d) ∧ ∃ a, src = .tBase a)) :
    asmForm (.codec .enc c) [dst, .num len, src, .num n] = none ∧ asmForm (.enc1 c) [dst, src] = none := by
  cases dst with
  | num | tBase => exact ⟨rfl, rfl⟩
  | bBase d =>
    cases src with
    | num | bBase => exact ⟨rfl, rfl⟩
    | tBase a => exact absurd ⟨⟨d, rfl⟩, a, rfl⟩ h

/-- DEC.c and DEC1.c take a destination in T and a source in B only. -/
theorem asmForm_dec_eq_none (c : CodecName) (len n : Nat) {dst src : AsmOperand}
    (h : ¬ ((∃ d, dst = .tBase d) ∧ ∃ a, src = .bBase a)) :
    asmForm (.codec .dec c) [dst, .num len, src, .num n] = none ∧ asmForm (.dec1 c) [dst, src] = none := by
  cases dst with
  | num | bBase => exact ⟨rfl, rfl⟩
  | tBase d =>
    cases src with
    | num | tBase => exact ⟨rfl, rfl⟩
    | bBase a => exact absurd ⟨⟨d, rfl⟩, a, rfl⟩ h

/-- TRITNEW and TRIT take a destination in T only. -/
theorem asmForm_tritnew_eq_none (v : Nat) {dst : AsmOperand} (h : ∀ d, dst ≠ .tBase d) :
    asmForm .tritnew [dst, .num v] = none ∧ asmForm .trit [dst, .num v] = none := by
  cases dst with
  | num | bBase => exact ⟨rfl, rfl⟩
  | tBase d => exact absurd rfl (h d)

/-! ## The forms -/

/-- A size command's one operand is its A3. -/
theorem assemble_size {m : Mnemonic} {ops : List AsmOperand} {f : Func} {c : CodecName} {n : Nat} (addrW : Nat)
    (h : asmForm m ops = some (codecCommand f c 0 0 0 n)) :
    assemble addrW m ops = if n < 2 ^ addrW then .ok (codecCommand f c 0 0 0 n) else .error .operandTooWide := by
  simp [assemble_codecCommand addrW h]

theorem assemble_tritnew (addrW d v : Nat) : assemble addrW .tritnew [.tBase d, .num v] =
    if d < 2 ^ addrW ∧ v < 2 ^ addrW then .ok (.tritnew d 0 0 v) else .error .operandTooWide := by
  rw [assemble_of_form (i := .tritnew d 0 0 v) addrW rfl]
  simp [Instr.WellFormed, Instr.words]

/-- Settles O5: what is accepted is well formed, each form gives its command, and operands of no form are refused. -/
theorem assembledCommandsAreWellFormed : Obligations.AssembledCommandsAreWellFormed := by
  refine ⟨fun addrW m ops i hi => ?accepted, fun addrW n c => ⟨assemble_size addrW rfl, assemble_size addrW rfl⟩,
    fun addrW d len src n c => ⟨assemble_codecCommand addrW rfl, assemble_codecCommand addrW rfl⟩, assemble_tritnew,
    fun addrW len n c dst src h => ?encBases, fun addrW len n c dst src h => ?decBases,
    fun addrW v dst h => ?tritnewBase⟩
  case accepted =>
    obtain ⟨-, hwf⟩ := (assemble_ok_iff ..).mp hi
    exact ⟨hwf, (decodeOfEncodeIsIdentity addrW i hwf).2⟩
  case encBases => exact (asmForm_enc_eq_none c len n h).imp (assemble_operandForm addrW) (assemble_operandForm addrW)
  case decBases => exact (asmForm_dec_eq_none c len n h).imp (assemble_operandForm addrW) (assemble_operandForm addrW)
  case tritnewBase => exact (asmForm_tritnew_eq_none v h).imp (assemble_operandForm addrW) (assemble_operandForm addrW)

/-! ## Pseudo-instructions -/

/-- N as the table of 30_encoding R51 writes it. -/
theorem chunkSizeOf_eq (c : CodecName) : chunkSizeOf c = if c = .bct then 4 else 5 := by cases c <;> rfl

/-- Every N, and the count 1 of the other region, is an operand word at ADDR_W of 3 or more. -/
theorem chunkSizeOf_fits {addrW : Nat} (haddr : 3 ≤ addrW) (c : CodecName) :
    chunkSizeOf c < 2 ^ addrW ∧ 1 < 2 ^ addrW := by
  have hpow : 2 ^ 3 ≤ 2 ^ addrW := Nat.pow_le_pow_right (by omega) haddr
  have hsize := chunkSizeOf_le_five c
  omega

/-- Settles O6: both sides have the same form, and its words fit. -/
theorem pseudoInstructionsExpand : Obligations.PseudoInstructionsExpand := by
  simp only [Obligations.PseudoInstructionsExpand, ← chunkSizeOf_eq]
  refine ⟨fun addrW d s c => ⟨rfl, fun haddr hd hs => ?enc1⟩, fun addrW d s c => ⟨rfl, fun haddr hd hs => ?dec1⟩,
    fun addrW d v => ⟨rfl, fun hd hv => (assemble_tritnew addrW d v).trans (if_pos ⟨hd, hv⟩)⟩⟩
  case enc1 =>
    obtain ⟨hN, hone⟩ := chunkSizeOf_fits haddr c
    exact (assemble_codecCommand addrW rfl).trans (if_pos ⟨hd, hone, hs, hN⟩)
  case dec1 =>
    obtain ⟨hN, hone⟩ := chunkSizeOf_fits haddr c
    exact (assemble_codecCommand addrW rfl).trans (if_pos ⟨hd, hN, hs, hone⟩)

end Sys2Proof.Machine
end

section
/-! SUPPORT. The words a command ignores, and the bounds checks (30_encoding R47, R48). -/

namespace Sys2Proof.Machine

/-- Settles O17: the operation each of these commands runs takes A3 only, or A0 and A3. -/
theorem ignoredWordsHaveNoEffect : Obligations.IgnoredWordsHaveNoEffect :=
  ⟨fun c a0 a1 a2 n s => ⟨(exec_encsz c a0 a1 a2 n s).trans (exec_encsz c 0 0 0 n s).symm,
    (exec_decsz c a0 a1 a2 n s).trans (exec_decsz c 0 0 0 n s).symm⟩, fun _ _ _ _ _ => rfl⟩

/-! ## The cause of each ending -/

section
variable (s : State)

@[simp] theorem completionOf_respondOk (count : Nat) : completionOf (respondOk count s) = some ⟨⟨.ok, count⟩, none⟩ := by
  simp [completionOf, respondOk]

@[simp] theorem completionOf_raiseFail (c : FailCause) :
    completionOf (raiseFail c s) = some ⟨⟨.fail, 0⟩, some (.fail c)⟩ := by
  simp [completionOf, raiseFail]

@[simp] theorem completionOf_raiseUninit (sp : SpaceName) (a : Nat) :
    completionOf (raiseUninit sp a s) = some ⟨freeResponse s.cfg (clobberAll s).draws, none⟩ := by
  simp [completionOf, raiseUninit_eq_finish]

end

/-! ## Bounds -/

/-- The command ended with ILLEGAL(BOUNDS). -/
def EndsOutOfBounds (a : Answer) : Prop := (completionOf a).map (·.cause) = some (some (.illegal .bounds))

/-- ENC.c ends out of bounds only by its check. -/
theorem encodeSlice_bounds (c : Codec) (d cap src n : Nat) (s : State) :
    (¬ (src + n ≤ s.cfg.tSize ∧ d + cap ≤ s.cfg.bSize) → encodeSlice c d cap src n s = raiseIllegal .bounds s) ∧
    (src + n ≤ s.cfg.tSize ∧ d + cap ≤ s.cfg.bSize → ¬ EndsOutOfBounds (encodeSlice c d cap src n s)) := by
  obtain ⟨hout, h⟩ | ⟨hin, -, h⟩ | ⟨hin, -, _, -, -, -, h⟩ | ⟨hin, -, _, -, -, h⟩ := encodeSlice_cases c d cap src n s
  · exact ⟨fun _ => h, fun hin => absurd hin hout⟩
  all_goals exact ⟨absurd hin, fun _ => by simp [EndsOutOfBounds, h]⟩

/-- DEC.c ends out of bounds only by its check. -/
theorem decodeSlice_bounds (c : Codec) (d k src m : Nat) (s : State) :
    (¬ (d + k ≤ s.cfg.tSize ∧ src + m ≤ s.cfg.bSize) → decodeSlice c d k src m s = raiseIllegal .bounds s) ∧
    (d + k ≤ s.cfg.tSize ∧ src + m ≤ s.cfg.bSize → ¬ EndsOutOfBounds (decodeSlice c d k src m s)) := by
  obtain ⟨hout, h⟩ | ⟨hin, -, h⟩ | ⟨hin, -, _, -, -, -, h⟩ | ⟨hin, -, _, -, -, -, h⟩ | ⟨hin, -, _, -, -, -, h⟩ :=
    decodeSlice_cases c d k src m s
  · exact ⟨fun _ => h, fun hin => absurd hin hout⟩
  all_goals exact ⟨absurd hin, fun _ => by simp [EndsOutOfBounds, h]⟩

/-- TRITNEW ends out of bounds only by its check. -/
theorem execTritnew_bounds (d a1 a2 v : Nat) (s : State) :
    (¬ d < s.cfg.tSize → execTritnew d a1 a2 v s = raiseIllegal .bounds s) ∧
    (d < s.cfg.tSize → ¬ EndsOutOfBounds (execTritnew d a1 a2 v s)) := by
  obtain ⟨hout, h⟩ | ⟨hin, -, h⟩ | ⟨hin, -, h⟩ := execTritnew_cases d a1 a2 v s
  · exact ⟨fun _ => h, fun hin => absurd hin (Nat.not_lt.mpr hout)⟩
  all_goals exact ⟨absurd hin, fun _ => by simp [EndsOutOfBounds, h]⟩

/-- A size command has no bounds check. -/
theorem respondOk_inBounds (count : Nat) (s : State) : ¬ EndsOutOfBounds (respondOk count s) := by
  simp [EndsOutOfBounds]

/-- Settles O18: a command ends out of bounds exactly by the check of the operation it runs. -/
theorem boundsAreCheckedExactly : Obligations.BoundsAreCheckedExactly := by
  refine ⟨fun c d cap src n s => ?enc, fun c d k src m s => ?dec, fun d a1 a2 v s => ?tritnew,
    fun c a0 a1 a2 n s => ?sizes⟩
  case enc =>
    rw [exec_enc]
    exact encodeSlice_bounds (codecOf s.cfg c) d cap src n s
  case dec =>
    rw [exec_dec]
    exact decodeSlice_bounds (codecOf s.cfg c) d k src m s
  case tritnew => exact execTritnew_bounds d a1 a2 v s
  case sizes =>
    rw [exec_encsz, exec_decsz]
    exact ⟨respondOk_inBounds _ s, respondOk_inBounds _ s⟩

end Sys2Proof.Machine
end

section
/-! SUPPORT. The size commands and TRITNEW (40_contract R57, R58, R63). -/

namespace Sys2Proof.Machine

theorem four_le_chunkSizeOf (c : CodecName) : 4 ≤ chunkSizeOf c := by cases c <;> decide

/-- Chunks of four trits or more need no more bytes than chunks of four (40_contract R57). -/
theorem ceilDiv_le_quarter {n chunkN : Nat} (hN : 4 ≤ chunkN) : ceilDiv n chunkN ≤ (n + 3) / 4 := by
  refine (ceilDiv_le_iff _ _ _ (by omega)).mpr ?_
  calc n ≤ 4 * ((n + 3) / 4) := by omega
    _ ≤ chunkN * ((n + 3) / 4) := Nat.mul_le_mul_right _ hN

/-- Settles O15: COUNT is `ceilDiv`, and no codec needs more bytes than one of four trits to a byte. -/
theorem encodedSizeIsTheCeiling : Obligations.EncodedSizeIsTheCeiling := by
  intro c a0 a1 a2 n s
  obtain ⟨hlow, hhigh⟩ := ceilDiv_bounds n (chunkSizeOf c) (chunkSizeOf_pos c)
  have hquarter : ceilDiv n (chunkSizeOf c) ≤ (n + 3) / 4 := ceilDiv_le_quarter (four_le_chunkSizeOf c)
  exact ⟨ceilDiv n (chunkSizeOf c), exec_encsz .., hlow, hhigh, fun hn => by omega⟩

/-- Settles O16: a byte holds at most five trits, so three bits more than an operand hold the product. -/
theorem decodedSizeIsTheProduct : Obligations.DecodedSizeIsTheProduct := by
  refine fun c a0 a1 a2 m s => ⟨exec_decsz .., fun hm => ?_⟩
  calc m * chunkSizeOf c ≤ m * 5 := Nat.mul_le_mul_left _ (chunkSizeOf_le_five c)
    _ < 2 ^ (s.cfg.addrW + 3) := by rw [pow_add]; omega

/-- Settles O34, by the three ways TRITNEW can end. -/
theorem tritnewChecksItsRange : Obligations.TritnewChecksItsRange := by
  intro d a1 a2 v s
  obtain ⟨hd, h⟩ | ⟨hd, hv, h⟩ | ⟨hd, hv, h⟩ := execTritnew_cases d a1 a2 v s
  · exact ⟨rfl, fun _ => h, by omega, by omega⟩
  · exact ⟨rfl, by omega, fun _ _ => h, by omega⟩
  · exact ⟨rfl, by omega, by omega, fun _ _ => ⟨cellWrite s.T d (tritOf v), h, cellWrite_sameOutside _ _ _, tritOf v,
      cellRead_cellWrite_same .., Nat.mod_eq_of_lt hv⟩⟩

end Sys2Proof.Machine
end

section
/-! SUPPORT. What a command that ends with FAIL or ILLEGAL leaves (40_contract R61; 60_exceptions R118 to R120). -/

namespace Sys2Proof.Machine

/-! ## Regions whose cells keep their state or are written -/

section
variable {α : Type}

theorem DrawnInside.refl (m : Space α) (a n : Nat) : DrawnInside m m a n := fun _ _ => .inl rfl

theorem regionClobber_drawnInside (draw : Nat → Option α) (m : Space α) (a k n : Nat) :
    DrawnInside m (regionClobber draw m a k n) a n := by
  intro i hi
  rw [regionClobber_inside draw n m a k i hi]
  cases draw (k + i) with
  | none => exact .inl rfl
  | some v => exact .inr ⟨v, rfl⟩

theorem regionWrite_drawnInside (m : Space α) (a n : Nat) (vs : List α) : DrawnInside m (regionWrite m a vs) a n := by
  intro i _
  by_cases hi : i < vs.length
  · exact .inr ⟨vs[i], by rw [regionWrite_inside vs m a i hi, List.getElem?_eq_getElem hi]⟩
  · exact .inl (regionWrite_outside vs m a (a + i) (by omega))

end

/-! ## FAIL with a clobbered destination -/

/-- The whole next state of a FAIL whose destination is `n` cells of B from `a` up. -/
theorem raiseFail_clobberB (why : FailCause) (a n : Nat) (s : State) :
    ∃ B', raiseFail why (clobberB a n s) = .next { s with
        B := B', draws := s.draws + n
        trace := s.trace ++ [⟨⟨.fail, 0⟩, some (.fail why)⟩], cidx := s.cidx + 1 } ∧
      SameOutside s.B B' a n ∧ DrawnInside s.B B' a n :=
  ⟨_, rfl, regionClobber_sameOutside _ _ _ _ _, regionClobber_drawnInside _ _ _ _ _⟩

/-- The whole next state of a FAIL whose destination is `n` cells of T from `a` up. -/
theorem raiseFail_clobberT (why : FailCause) (a n : Nat) (s : State) :
    ∃ T', raiseFail why (clobberT a n s) = .next { s with
        T := T', draws := s.draws + n
        trace := s.trace ++ [⟨⟨.fail, 0⟩, some (.fail why)⟩], cidx := s.cidx + 1 } ∧
      SameOutside s.T T' a n ∧ DrawnInside s.T T' a n :=
  ⟨_, rfl, regionClobber_sameOutside _ _ _ _ _, regionClobber_drawnInside _ _ _ _ _⟩

/-- Settles O19: CAPACITY is checked after BOUNDS and before the source is read. -/
theorem encodeIntoTooFewBytesFails : Obligations.EncodeIntoTooFewBytesFails := by
  intro c d cap src n s hT hB hcap
  have hfew : cap < ceilDiv n (codecOf s.cfg c).chunkN := by
    rw [codecOf_chunkN]
    exact (lt_iff_lt_of_le_iff_le (ceilDiv_le_iff n _ cap (chunkSizeOf_pos c))).mpr hcap
  rw [exec_enc, encodeSlice, if_pos ((encInBounds_iff ..).mpr ⟨hT, hB⟩), if_pos hfew]
  exact raiseFail_clobberB .capacity d cap s

/-- Settles O20: CAPACITY is checked after BOUNDS and before the source is read. -/
theorem decodeOfTooManyTritsFails : Obligations.DecodeOfTooManyTritsFails := by
  intro c d k src m s hT hB hcap
  rw [exec_dec, decodeSlice, if_pos ((decInBounds_iff ..).mpr ⟨hT, hB⟩), if_pos (by rwa [codecOf_chunkN])]
  exact raiseFail_clobberT .capacity d k s

/-! ## The cause a command ends with -/

theorem DestinationChange.drawnInside {dT dB : Nat × Nat} {r : Response} {change : State → State}
    (h : DestinationChange dT dB r change) (s : State) :
    DrawnInside s.T (change s).T dT.1 dT.2 ∧ DrawnInside s.B (change s).B dB.1 dB.2 := by
  cases h with
  | unchanged => exact ⟨.refl _ _ _, .refl _ _ _⟩
  | clobberT => exact ⟨regionClobber_drawnInside _ _ _ _ _, .refl _ _ _⟩
  | clobberB => exact ⟨.refl _ _ _, regionClobber_drawnInside _ _ _ _ _⟩
  | storeTrits => exact ⟨regionWrite_drawnInside _ _ _ _, .refl _ _ _⟩
  | storeBytes => exact ⟨.refl _ _ _, regionWrite_drawnInside _ _ _ _⟩

/-- How a command ends, by the cause beside its response, whether or not its source is written. -/
inductive CauseEnd (i : Instr) (s : State) : State → Prop
  /-- ILLEGAL: nothing is written (60_exceptions R120). -/
  | illegal {why : IllegalCause} : CauseEnd i s (finish ⟨.illegal, 0⟩ (some (.illegal why)) s)
  /-- FAIL: a change inside the destination comes first (40_contract R61). -/
  | fail {why : FailCause} {change : State → State}
      (hchange : DestinationChange (destinationT i) (destinationB i) ⟨.fail, 0⟩ change) :
      CauseEnd i s (finish ⟨.fail, 0⟩ (some (.fail why)) (change s))
  /-- OK, or the undefined response of the model fault (60_exceptions R121). -/
  | noCause {r : Response} {t : State} (htrace : t.trace = s.trace ++ [⟨r, none⟩]) : CauseEnd i s t

theorem exec_enc_cause (c : CodecName) (d cap src n : Nat) (s : State) :
    ∃ t, exec (codecCommand .enc c d cap src n) s = .next t ∧ CauseEnd (codecCommand .enc c d cap src n) s t := by
  rw [exec_enc]
  obtain ⟨-, h⟩ | ⟨-, -, h⟩ | ⟨-, -, j, -, -, -, h⟩ | ⟨-, -, trits, -, -, h⟩ :=
    encodeSlice_cases (codecOf s.cfg c) d cap src n s <;> rw [h]
  · exact ⟨_, rfl, .illegal⟩
  · refine ⟨_, rfl, .fail (change := clobberB d cap) ?_⟩
    rw [destinationB_enc]
    exact .clobberB rfl
  · exact ⟨_, raiseUninit_eq_finish .., .noCause rfl⟩
  · exact ⟨_, rfl, .noCause rfl⟩

theorem exec_dec_cause (c : CodecName) (d k src m : Nat) (s : State) :
    ∃ t, exec (codecCommand .dec c d k src m) s = .next t ∧ CauseEnd (codecCommand .dec c d k src m) s t := by
  have hclobber : DestinationChange (destinationT (codecCommand .dec c d k src m))
      (destinationB (codecCommand .dec c d k src m)) ⟨.fail, 0⟩ (clobberT d k) := by
    rw [destinationT_dec]
    exact .clobberT rfl
  rw [exec_dec]
  obtain ⟨-, h⟩ | ⟨-, -, h⟩ | ⟨-, -, j, -, -, -, h⟩ | ⟨-, -, b, -, -, -, h⟩ | ⟨-, -, b, -, -, -, h⟩ :=
    decodeSlice_cases (codecOf s.cfg c) d k src m s <;> rw [h]
  · exact ⟨_, rfl, .illegal⟩
  · exact ⟨_, rfl, .fail hclobber⟩
  · exact ⟨_, raiseUninit_eq_finish .., .noCause rfl⟩
  · exact ⟨_, rfl, .fail hclobber⟩
  · exact ⟨_, rfl, .noCause rfl⟩

theorem exec_tritnew_cause (d a1 a2 v : Nat) (s : State) :
    ∃ t, exec (.tritnew d a1 a2 v) s = .next t ∧ CauseEnd (.tritnew d a1 a2 v) s t := by
  rw [exec_tritnew]
  obtain ⟨-, h⟩ | ⟨-, -, h⟩ | ⟨-, -, h⟩ := execTritnew_cases d a1 a2 v s <;> rw [h]
  · exact ⟨_, rfl, .illegal⟩
  · exact ⟨_, rfl, .fail .unchanged⟩
  · exact ⟨_, rfl, .noCause rfl⟩

theorem exec_cause (i : Instr) (s : State) : ∃ t, exec i s = .next t ∧ CauseEnd i s t := by
  induction i using instr_cases with
  | codec f c a0 a1 a2 a3 =>
    cases f with
    | encsz => exact ⟨_, exec_encsz .., .noCause rfl⟩
    | enc => exact exec_enc_cause c a0 a1 a2 a3 s
    | decsz => exact ⟨_, exec_decsz .., .noCause rfl⟩
    | dec => exact exec_dec_cause c a0 a1 a2 a3 s
  | tritnew d a1 a2 v => exact exec_tritnew_cause d a1 a2 v s

theorem response_of_append_eq {l : List Completion} {r r' : Response} {c c' : Option Cause}
    (h : l ++ [⟨r, c⟩] = l ++ [⟨r', c'⟩]) : r' = r := by
  obtain ⟨hr, -⟩ : r = r' ∧ c = c' := by simpa using h
  exact hr.symm

/-- Settles O35: a FAIL comes after a change inside the destination, an ILLEGAL after none. -/
theorem failuresKeepEverythingOutsideTheDestination : Obligations.FailuresKeepEverythingOutsideTheDestination := by
  intro i s t r hexec
  obtain ⟨t', ht', hend⟩ := exec_cause i s
  obtain rfl : t' = t := by simpa [hexec] using ht'.symm
  cases hend with
  | illegal => exact ⟨fun _ h => by simp at h, fun _ h => ⟨response_of_append_eq h, rfl⟩⟩
  | fail hchange =>
    obtain ⟨-, -, htrace, hmark⟩ := hchange.keeps s
    obtain ⟨hframeT, hframeB⟩ := hchange.sameOutside s
    obtain ⟨hdrawnT, hdrawnB⟩ := hchange.drawnInside s
    refine ⟨fun _ h => ⟨?_, hmark, hframeT, hframeB, hdrawnT, hdrawnB⟩, fun _ h => by simp [htrace] at h⟩
    rw [finish_trace, htrace] at h
    exact response_of_append_eq h
  | noCause htrace => exact ⟨fun _ h => by simp [htrace] at h, fun _ h => by simp [htrace] at h⟩

end Sys2Proof.Machine
end

section
/-! SUPPORT. The law of the codecs: the encoder gives valid codepoints only, and decoding them gives the chunk back (40_contract R56). -/

namespace Sys2Proof.Machine

/-- The law between the three functions of a codec (40_contract R56). -/
structure Codec.Lawful (c : Codec) : Prop where
  valid_encode : ∀ x, c.valid (c.encodeChunk x) = true
  decode_encode : ∀ x, c.decodeChunk (c.encodeChunk x) = (List.range c.chunkN).map x
  length_decode : ∀ y, c.valid y = true → (c.decodeChunk y).length = c.chunkN

@[simp] theorem tritOf_val (x : Trit) : tritOf x.val = x := Fin.ofNat_val_eq_self x

/-! ## Base-3 digits -/

@[simp] theorem digits3_length (n v : Nat) : (digits3 n v).length = n := by
  induction n generalizing v with
  | zero => rfl
  | succ n ih => simp [digits3, ih]

theorem digits3_cons (n q : Nat) (x : Trit) : digits3 (n + 1) (x.val + 3 * q) = x :: digits3 n q := by
  have hmod : (x.val + 3 * q) % 3 = x.val := by omega
  have hdiv : (x.val + 3 * q) / 3 = q := by omega
  rw [digits3, hmod, hdiv, tritOf_val]

/-- The digits of a chunk's base-3 value are its trits (41_base3 R69, R72). -/
theorem digits3_val3 (x : Chunk) : digits3 5 (val3 x) = (List.range 5).map x := by
  have hhorner : val3 x = (x 0).val + 3 * ((x 1).val + 3 * ((x 2).val + 3 * ((x 3).val + 3 * ((x 4).val + 3 * 0)))) := by
    unfold val3
    omega
  simp only [hhorner, digits3_cons]
  rfl

/-- The digits of `w + 3^n * q` are those of `w`, then `q`. -/
theorem digits3_snoc {n w q : Nat} (hw : w < 3 ^ n) (hq : q < 3) :
    digits3 (n + 1) (w + 3 ^ n * q) = digits3 n w ++ [tritOf q] := by
  induction n generalizing w with
  | zero =>
    obtain rfl : w = 0 := by simpa using hw
    simp [digits3, Nat.mod_eq_of_lt hq]
  | succ n ih =>
    rw [pow_succ] at hw
    have hhead : (w + 3 ^ (n + 1) * q) % 3 = w % 3 := by rw [pow_succ', Nat.mul_assoc, Nat.add_mul_mod_self_left]
    have htail : (w + 3 ^ (n + 1) * q) / 3 = w / 3 + 3 ^ n * q := by
      rw [pow_succ', Nat.mul_assoc, Nat.add_mul_div_left _ _ (by omega)]
    rw [digits3, hhead, htail, ih (by omega)]
    rfl

/-! ## The four codecs -/

theorem base3Encode_toNat (x : Chunk) : (base3Encode x).toNat = val3 x := by
  have hval := val3_lt x
  simp only [base3Encode, BitVec.toNat_ofNat]
  omega

theorem base3_lawful : base3.Lawful where
  valid_encode x := by
    have hval := val3_lt x
    simp only [base3, base3Valid, base3Encode_toNat]
    exact decide_eq_true (by omega)
  decode_encode x := by
    simp only [base3, base3Decode, base3Encode_toNat, digits3_val3]
  length_decode y _ := digits3_length 5 y.toNat

/-- Extracting digits from the top gives the base-3 digits of the scaled byte: the trit extracted first is the most significant
(42_base243prediv R79, R81). -/
theorem base243Extract_eq_digits3 {n y : Nat} (done : List Trit) (hy : y < 256) :
    base243Extract n y done = digits3 n (3 ^ n * y / 256) ++ done := by
  induction n generalizing y done with
  | zero => rfl
  | succ n ih =>
    have htrit : (y * 3) >>> 8 = y * 3 / 256 := Nat.shiftRight_eq_div_pow _ 8
    have hrest : (y * 3) &&& 0xFF = y * 3 % 256 := Nat.and_two_pow_sub_one_eq_mod _ 8
    have hscaled : 3 ^ (n + 1) * y / 256 = 3 ^ n * (y * 3 % 256) / 256 + 3 ^ n * (y * 3 / 256) := by
      have hsplit : 3 ^ (n + 1) * y = 3 ^ n * (y * 3 % 256) + 256 * (3 ^ n * (y * 3 / 256)) := by
        have hdiv := Nat.mod_add_div (y * 3) 256
        calc 3 ^ (n + 1) * y = 3 ^ n * (y * 3) := by ring
          _ = 3 ^ n * (y * 3 % 256 + 256 * (y * 3 / 256)) := by rw [hdiv]
          _ = _ := by ring
      rw [hsplit, Nat.add_mul_div_left _ _ (by omega)]
    have hlow : 3 ^ n * (y * 3 % 256) / 256 < 3 ^ n := by
      rw [Nat.div_lt_iff_lt_mul (by omega)]
      exact Nat.mul_lt_mul_of_pos_left (Nat.mod_lt _ (by omega)) (by positivity)
    rw [base243Extract, htrit, hrest, ih _ (Nat.mod_lt _ (by omega)), hscaled, digits3_snoc hlow (by omega)]
    simp

/-- The decoder's trits are the base-3 digits of `243 * b / 256` (42_base243prediv R81). -/
theorem base243Decode_eq_digits3 (b : Byte) : base243Decode b = digits3 5 (243 * b.toNat / 256) := by
  simpa [base243Decode] using base243Extract_eq_digits3 (n := 5) [] b.isLt

theorem base243Encode_toNat (x : Chunk) : (base243Encode x).toNat = (val3 x * 256 + 242) / 243 := by
  have hval := val3_lt x
  simp only [base243Encode, BitVec.toNat_ofNat]
  omega

theorem base243_lawful : base243.Lawful where
  valid_encode _ := rfl
  decode_encode x := by
    have hval := val3_lt x
    have hback : 243 * ((val3 x * 256 + 242) / 243) / 256 = val3 x := by omega
    simp only [base243, base243Decode_eq_digits3, base243Encode_toNat, hback, digits3_val3]
  length_decode y _ := by simp only [base243, base243Decode_eq_digits3, digits3_length]

/-- The fields of a byte are its base-4 digits (43_bct R86). -/
theorem bctField_eq (b : Byte) (i : Nat) : bctField b i = b.toNat / 4 ^ i % 4 := by
  rw [bctField, Nat.shiftRight_eq_div_pow, pow_mul]
  exact Nat.and_two_pow_sub_one_eq_mod _ 2

theorem bctEncode_toNat (x : Chunk) :
    (bctEncode x).toNat = (x 0).val + 4 * (x 1).val + 16 * (x 2).val + 64 * (x 3).val := by
  unfold bctEncode
  generalize x 0 = x0, x 1 = x1, x 2 = x2, x 3 = x3
  revert x0 x1 x2 x3
  decide

/-- Field `i` of an encoded chunk is trit `i` (43_bct R87). -/
theorem bctField_bctEncode (x : Chunk) {i : Nat} (hi : i < 4) : bctField (bctEncode x) i = (x i).val := by
  rw [bctField_eq, bctEncode_toNat]
  interval_cases i <;> omega

theorem bct_lawful : bct.Lawful where
  valid_encode x := by
    simp only [bct, bctValid, List.all_eq_true, List.mem_range]
    intro i hi
    rw [bctField_bctEncode x hi]
    exact decide_eq_true (by omega)
  decode_encode x := by
    refine List.map_congr_left fun i hi => ?_
    simp only [bct, bctField_bctEncode x (List.mem_range.mp hi), tritOf_val]
  length_decode y _ := by simp [bct, bctDecode]

theorem dpt_lawful {table : List Byte} (h : DptTableOk table) : (dpt table).Lawful := by
  have hbyte (x : Chunk) : val3 x < table.length := h.total ▸ val3_lt x
  have hget (x : Chunk) : dptEncode table x = table[val3 x]'(hbyte x) := by
    simpa [hbyte x] using (getElem?_val3_eq_dptEncode h.total x).symm
  exact {
    valid_encode := fun x => by
      simp only [dpt, dptValid, hget, List.contains_iff_mem]
      exact List.getElem_mem _
    decode_encode := fun x => by
      simp only [dpt, dptDecode, hget, h.injective.idxOf_getElem, digits3_val3]
    length_decode := fun y _ => digits3_length 5 _ }

theorem codecOf_lawful {cfg : Config} (h : DptTableOk cfg.dptTable) (c : CodecName) : (codecOf cfg c).Lawful := by
  cases c with
  | b3 => exact base3_lawful
  | b243 => exact base243_lawful
  | bct => exact bct_lawful
  | dpt => exact dpt_lawful h

/-- Settles O42, codec by codec. -/
theorem chunksRoundTrip : Obligations.ChunksRoundTrip := by
  intro cfg c x htable
  obtain ⟨hvalid, hdecode, hlength⟩ := codecOf_lawful htable c
  rw [codecOf_chunkN] at hdecode hlength
  exact ⟨hvalid x, hdecode x, hlength⟩

end Sys2Proof.Machine
end

section
/-! SUPPORT. What a DEC.c does with the bytes it reads, over any codec (40_contract R60). -/

namespace Sys2Proof.Machine

/-! ## Reading a region -/

section
variable {α : Type}

/-- What a region reads as depends on its own cells only. -/
theorem regionRead_congr {m m' : Space α} {a n : Nat} (h : ∀ j < n, cellRead m' (a + j) = cellRead m (a + j)) :
    regionRead m' a n = regionRead m a n := by
  induction n generalizing a with
  | zero => rfl
  | succ n ih =>
    have hhead : cellRead m' a = cellRead m a := h 0 (by omega)
    have htail : regionRead m' (a + 1) n = regionRead m (a + 1) n :=
      ih fun j hj => by simpa [Nat.add_assoc, Nat.add_comm 1] using h (j + 1) (by omega)
    rw [regionRead, regionRead, hhead, htail]

/-- A region reads as what was written to it. -/
theorem regionRead_regionWrite (m : Space α) (a : Nat) (vs : List α) :
    regionRead (regionWrite m a vs) a vs.length = .ok vs := by
  obtain ⟨vs', hread, hlen, hcells⟩ | ⟨j, hj, -, hnone, -⟩ := regionRead_cases (regionWrite m a vs) vs.length a
  · rw [hread]
    congr 1
    refine List.ext_getElem? fun i => ?_
    by_cases hi : i < vs.length
    · rw [← hcells i hi, regionWrite_inside vs m a i hi]
    · rw [List.getElem?_eq_none (by omega), List.getElem?_eq_none (by omega)]
  · simp [regionWrite_inside vs m a j hj, hj] at hnone

end

/-! ## DEC.c on the bytes it reads -/

/-- DEC.c with its regions in bounds, bytes enough and a written source validates what it read, then decodes the bytes it consumes. -/
theorem decodeSlice_of_read (c : Codec) {s : State} {d k src m : Nat} {b : List Byte}
    (hT : d + k ≤ s.cfg.tSize) (hB : src + m ≤ s.cfg.bSize) (hcap : k ≤ m * c.chunkN)
    (hread : regionRead s.B src (decReadCount s.cfg c.chunkN k m) = .ok b) :
    decodeSlice c d k src m s =
      if b.all c.valid then respondOk 0 (storeTrits d ((decodeBytes c (b.take (ceilDiv k c.chunkN))).take k) s)
      else raiseFail .invalidCodepoint (clobberT d k s) := by
  rw [decodeSlice, if_pos ((decInBounds_iff ..).mpr ⟨hT, hB⟩), if_neg (Nat.not_lt.mpr hcap), hread]

/-- `Valid_c` is false exactly on the bytes the spec calls invalid (41_base3 R71, 42_base243prediv R80, 43_bct R88, 44_dpt R111). -/
theorem valid_eq_false_iff (cfg : Config) (c : CodecName) (y : Byte) :
    (codecOf cfg c).valid y = false ↔ InvalidCodepoint cfg c y := by
  cases c with
  | b3 => simp [codecOf, base3, base3Valid, InvalidCodepoint, Nat.lt_iff_add_one_le]
  | b243 => simp [codecOf, base243, base243Valid, InvalidCodepoint]
  | bct => simp [codecOf, bct, bctValid, InvalidCodepoint, bctField_eq]
  | dpt => simp [codecOf, dpt, dptValid, InvalidCodepoint]

/-- Settles O31: the bytes read are validated whole, and one of them is invalid. -/
theorem decodeOfInvalidByteFails : Obligations.DecodeOfInvalidByteFails := by
  intro c d k src m s b bad hT hB hcap hsrc hbad hinvalid
  rw [bytesRead, ← codecOf_chunkN s.cfg c] at hsrc hbad
  rw [← codecOf_chunkN s.cfg c] at hcap
  have hnotAll : ¬ ((List.range (decReadCount s.cfg (codecOf s.cfg c).chunkN k m)).map b).all
      (codecOf s.cfg c).valid = true := by
    simp only [List.all_map, List.all_eq_true, List.mem_range]
    exact fun hall => by simpa [(valid_eq_false_iff ..).mpr hinvalid] using hall bad hbad
  rw [exec_dec, decodeSlice_of_read _ hT hB hcap (regionRead_of_written _ _ _ b hsrc), if_neg hnotAll]
  exact raiseFail_clobberT .invalidCodepoint d k s

/-- A DEC.c that reads the same bytes in another B ends in the same state but for B: it never writes B, save by the model fault. -/
theorem decodeSlice_withB {c : Codec} {s t : State} {d k src m : Nat} {B' : Space Byte}
    (hread : regionRead B' src (decReadCount s.cfg c.chunkN k m) = regionRead s.B src (decReadCount s.cfg c.chunkN k m))
    (h : decodeSlice c d k src m s = .next t) :
    ∃ B'', decodeSlice c d k src m { s with B := B' } = .next { t with B := B'' } := by
  unfold decodeSlice at h ⊢
  rw [← hread] at h
  dsimp only
  split_ifs at h ⊢
  · cases h
    exact ⟨_, rfl⟩
  · cases hr : regionRead B' src (decReadCount s.cfg c.chunkN k m) with
    | error a =>
      rw [hr] at h
      cases h
      exact ⟨_, rfl⟩
    | ok b =>
      simp only [hr] at h ⊢
      split_ifs at h ⊢
      · cases h
        exact ⟨_, rfl⟩
      · cases h
        exact ⟨_, rfl⟩
  · cases h
    exact ⟨_, rfl⟩

theorem eq_ceilDiv {a n count : Nat} (hn : 0 < n) (hlow : a ≤ n * count) (hhigh : n * count < a + n) :
    count = ceilDiv a n := by
  refine Nat.le_antisymm ?_ ((ceilDiv_le_iff _ _ _ hn).mpr hlow)
  have hroom : n * count < n * (ceilDiv a n + 1) := by
    rw [Nat.mul_add]
    have hceil := (ceilDiv_bounds a n hn).1
    omega
  exact Nat.lt_succ_iff.mp (Nat.lt_of_mul_lt_mul_left hroom)

/-- Settles O33: DEC.c reads the consumed bytes only, and the rest of what it does depends on the draws and on T. -/
theorem unconsumedBytesDoNotMatter : Obligations.UnconsumedBytesDoNotMatter := by
  intro c d k src m count s t t' B' hvalidate hlow hhigh hsame hexec hexec'
  obtain rfl : count = ceilDiv k (chunkSizeOf c) := eq_ceilDiv (chunkSizeOf_pos c) hlow hhigh
  have hcount : decReadCount s.cfg (codecOf s.cfg c).chunkN k m = ceilDiv k (chunkSizeOf c) := by
    simp [decReadCount, hvalidate]
  rw [exec_dec] at hexec hexec'
  obtain ⟨B'', hend⟩ := decodeSlice_withB (B' := B') (by rw [hcount, regionRead_congr hsame]) hexec
  obtain rfl : { t with B := B'' } = t' := by simpa [hend] using hexec'
  exact ⟨rfl, rfl, rfl⟩

end Sys2Proof.Machine
end

section
/-! SUPPORT. Decoding what an ENC.c wrote gives its trits back (40_contract R68). -/

namespace Sys2Proof.Machine

/-- The chunks `j = 0 .. q-1` of `n` entries each, one after the other. -/
theorem flatMap_range_chunks {α : Type} (f : Nat → α) (n q : Nat) :
    ((List.range q).flatMap fun j => (List.range n).map fun i => f (n * j + i)) = (List.range (n * q)).map f := by
  induction q with
  | zero => simp
  | succ q ih =>
    rw [List.range_succ, List.flatMap_append, ih, Nat.mul_succ, List.range_add, List.map_append]
    simp

/-- Decoding an encoded sequence gives the sequence and its padding (40_contract R54, R56). -/
theorem decodeBytes_encodeTrits {c : Codec} (h : c.Lawful) (t : List Trit) :
    decodeBytes c (encodeTrits c t) = (List.range (c.chunkN * ceilDiv t.length c.chunkN)).map fun i => t.getD i 0 := by
  rw [← flatMap_range_chunks, decodeBytes, encodeTrits, List.flatMap_map]
  simp only [h.decode_encode]
  rfl

theorem take_decodeBytes_encodeTrits {c : Codec} (h : c.Lawful) (hN : 0 < c.chunkN) (t : List Trit) :
    (decodeBytes c (encodeTrits c t)).take t.length = t := by
  have hlen := (ceilDiv_bounds t.length c.chunkN hN).1
  rw [decodeBytes_encodeTrits h, ← List.map_take, List.take_range, Nat.min_eq_left hlen]
  refine List.ext_getElem (by simp) fun i _ hi => ?_
  simp [hi]

theorem encodeTrits_valid {c : Codec} (h : c.Lawful) (t : List Trit) : (encodeTrits c t).all c.valid = true := by
  simp [encodeTrits, h.valid_encode]

/-- An ENC.c of a written source that answered OK passed its checks and wrote the encoded trits (40_contract R59). -/
theorem encodeSlice_ok_inv {c : Codec} {s t : State} {d cap src n size : Nat}
    (hsource : ∀ j < n, ∃ v, cellRead s.T (src + j) = some v) (hexec : encodeSlice c d cap src n s = .next t)
    (htrace : t.trace = s.trace ++ [⟨⟨.ok, size⟩, none⟩]) :
    ∃ trits : List Trit, trits.length = n ∧ (∀ i < n, cellRead s.T (src + i) = trits[i]?) ∧
      d + size ≤ s.cfg.bSize ∧ size = ceilDiv n c.chunkN ∧
      t = finish ⟨.ok, size⟩ none (storeBytes d (encodeTrits c trits) s) := by
  obtain ⟨-, h⟩ | ⟨-, -, h⟩ | ⟨-, -, j, hj, hnone, -, -⟩ | ⟨⟨-, hB⟩, hcap, trits, hlen, hcells, h⟩ :=
    encodeSlice_cases c d cap src n s
  · obtain rfl : _ = t := Host.Outcome.next.inj (h.symm.trans hexec)
    simp at htrace
  · obtain rfl : _ = t := Host.Outcome.next.inj (h.symm.trans hexec)
    simp at htrace
  · obtain ⟨v, hv⟩ := hsource j hj
    simp [hnone] at hv
  · obtain rfl : _ = t := Host.Outcome.next.inj (h.symm.trans hexec)
    obtain rfl : ceilDiv n c.chunkN = size := by simpa using htrace
    exact ⟨trits, hlen, hcells, by omega, rfl, rfl⟩

/-- DEC.c of the bytes an encoded sequence fills, for as many trits, writes the sequence (40_contract R68). -/
theorem decodeSlice_of_encoded {c : Codec} (h : c.Lawful) (hN : 0 < c.chunkN) {s : State} {m : Space Byte} {d src : Nat}
    {trits : List Trit} (hmem : s.B = regionWrite m src (encodeTrits c trits))
    (hT : d + trits.length ≤ s.cfg.tSize) (hB : src + ceilDiv trits.length c.chunkN ≤ s.cfg.bSize) :
    decodeSlice c d trits.length src (ceilDiv trits.length c.chunkN) s = respondOk 0 (storeTrits d trits s) := by
  have hcap : trits.length ≤ ceilDiv trits.length c.chunkN * c.chunkN := by
    rw [Nat.mul_comm]
    exact (ceilDiv_bounds _ _ hN).1
  have hread : regionRead s.B src (decReadCount s.cfg c.chunkN trits.length (ceilDiv trits.length c.chunkN)) =
      .ok (encodeTrits c trits) := by
    rw [decReadCount, ite_self, hmem, ← encodeTrits_length, regionRead_regionWrite]
  rw [decodeSlice_of_read c hT hB hcap hread, if_pos (encodeTrits_valid h trits),
    List.take_of_length_le (encodeTrits_length c trits).le, take_decodeBytes_encodeTrits h hN]

/-- Settles O43, from the law of the codec. -/
theorem sequencesRoundTrip : Obligations.SequencesRoundTrip := by
  intro c d cap src n d2 size s t htable hsource hexec htrace hT
  have hlawful := codecOf_lawful htable c
  have hN : 0 < (codecOf s.cfg c).chunkN := by simpa using chunkSizeOf_pos c
  rw [exec_enc] at hexec
  obtain ⟨trits, rfl, hcells, hB, rfl, rfl⟩ := encodeSlice_ok_inv (by simpa using hsource.1) hexec htrace
  refine ⟨regionWrite s.T d2 trits, ?_, regionWrite_sameOutside _ _ _, fun i hi => ?_⟩
  · rw [exec_dec]
    exact decodeSlice_of_encoded hlawful hN (m := s.B) rfl hT hB
  · rw [regionWrite_inside trits s.T d2 i hi, hcells i hi]

end Sys2Proof.Machine
end

section
/-! SUPPORT. What a DEC.c leaves when its checks pass and every byte it reads is valid, over any codec: the trits it writes, chunk by
chunk (40_contract R53, R55, R60). -/

namespace Sys2Proof.Machine

/-- Entry `i` of pieces of `n` entries each, one after the other, is entry `i mod n` of piece `i div n`. -/
theorem getElem?_flatMap_of_length {α β : Type} {f : α → List β} {n : Nat} (hn : 0 < n) {l : List α}
    (hlen : ∀ y ∈ l, (f y).length = n) (i : Nat) :
    (l.flatMap f)[i]? = l[i / n]?.bind fun y => (f y)[i % n]? := by
  induction l generalizing i with
  | nil => simp
  | cons y l ih =>
    obtain ⟨hy, hl⟩ := List.forall_mem_cons.mp hlen
    rw [List.flatMap_cons]
    obtain hi | hi := Nat.lt_or_ge i n
    · rw [List.getElem?_append_left (hy.symm ▸ hi), Nat.div_eq_of_lt hi, Nat.mod_eq_of_lt hi]
      rfl
    · rw [List.getElem?_append_right (hy.symm ▸ hi), hy, ih hl, Nat.div_eq_sub_div hn hi, Nat.mod_eq_sub_mod hi,
        List.getElem?_cons_succ]

/-- A DEC.c that passes its CAPACITY check reads every byte it consumes (40_contract R60). -/
theorem ceilDiv_le_decReadCount {cfg : Config} {chunkN k m : Nat} (hN : 0 < chunkN) (hcap : k ≤ chunkN * m) :
    ceilDiv k chunkN ≤ decReadCount cfg chunkN k m := by
  unfold decReadCount
  split_ifs
  · exact (ceilDiv_le_iff _ _ _ hN).mpr hcap
  · exact le_rfl

/-- An entry of a sequence lies in one of its chunks (40_contract R53). -/
theorem div_lt_ceilDiv {i k n : Nat} (hn : 0 < n) (hi : i < k) : i / n < ceilDiv k n := by
  rw [Nat.div_lt_iff_lt_mul hn, Nat.mul_comm]
  exact hi.trans_le (ceilDiv_bounds k n hn).1

/-- Trit `i` of the `k` requested is trit `i mod N` of byte `i div N`, when the bytes at hand are as many as the request consumes
(40_contract R53, R60). -/
theorem getElem?_take_decodeBytes {c : Codec} (h : c.Lawful) (hN : 0 < c.chunkN) {k r : Nat} {b : Nat → Byte}
    (hr : ceilDiv k c.chunkN ≤ r) (hvalid : ∀ j < r, c.valid (b j) = true) {i : Nat} (hi : i < k) :
    ((decodeBytes c (((List.range r).map b).take (ceilDiv k c.chunkN))).take k)[i]? =
      (c.decodeChunk (b (i / c.chunkN)))[i % c.chunkN]? := by
  have hbyte : i / c.chunkN < ceilDiv k c.chunkN := div_lt_ceilDiv hN hi
  have hlen : ∀ y ∈ ((List.range r).map b).take (ceilDiv k c.chunkN), (c.decodeChunk y).length = c.chunkN := by
    intro y hy
    obtain ⟨j, hj, rfl⟩ := List.mem_map.mp (List.mem_of_mem_take hy)
    exact h.length_decode _ (hvalid j (List.mem_range.mp hj))
  rw [List.getElem?_take_of_lt hi, decodeBytes, getElem?_flatMap_of_length hN hlen, List.getElem?_take_of_lt hbyte]
  simp [hbyte.trans_le hr]

/-- The whole next state of such a DEC.c: OK with COUNT 0, trit `i` of the destination is trit `i mod N` of byte `i div N`, and nothing
past the `k` trits asked for is touched (40_contract R53, R55, R60). -/
theorem decodeSlice_writes {c : Codec} (h : c.Lawful) (hN : 0 < c.chunkN) {s : State} {d k src m : Nat} {b : Nat → Byte}
    (hT : d + k ≤ s.cfg.tSize) (hB : src + m ≤ s.cfg.bSize) (hcap : k ≤ c.chunkN * m)
    (hsrc : RegionHolds s.B src (decReadCount s.cfg c.chunkN k m) b)
    (hvalid : ∀ j < decReadCount s.cfg c.chunkN k m, c.valid (b j) = true) :
    ∃ T', decodeSlice c d k src m s = .next { s with
        T := T', trace := s.trace ++ [⟨⟨.ok, 0⟩, none⟩], cidx := s.cidx + 1 } ∧ SameOutside s.T T' d k ∧
      ∀ i < k, cellRead T' (d + i) = (c.decodeChunk (b (i / c.chunkN)))[i % c.chunkN]? := by
  have hall : ((List.range (decReadCount s.cfg c.chunkN k m)).map b).all c.valid = true := by
    simpa using hvalid
  have hread : ceilDiv k c.chunkN ≤ decReadCount s.cfg c.chunkN k m := ceilDiv_le_decReadCount hN hcap
  have hend := decodeSlice_of_read c hT hB (Nat.mul_comm .. ▸ hcap) (regionRead_of_written _ _ _ b hsrc)
  rw [if_pos hall] at hend
  refine ⟨_, hend, (regionWrite_sameOutside _ _ _).mono (List.length_take_le ..), fun i hi => ?_⟩
  have htrit := getElem?_take_decodeBytes h hN hread hvalid hi
  have hlen := h.length_decode _ (hvalid _ ((div_lt_ceilDiv hN hi).trans_le hread))
  have hentry : i % c.chunkN < (c.decodeChunk (b (i / c.chunkN))).length := (Nat.mod_lt _ hN).trans_eq hlen.symm
  obtain ⟨hwritten, -⟩ := List.getElem?_eq_some_iff.mp (htrit.trans (List.getElem?_eq_getElem hentry))
  exact (regionWrite_inside _ _ _ _ hwritten).trans htrit

end Sys2Proof.Machine
end

section
/-! SUPPORT. ENC.B3 and DEC.B3: the positional base-3 value of a chunk, and the base-3 digits of a byte (41_base3 R69 to R72). -/

namespace Sys2Proof.Machine

/-- The base-3 value of chunk `j` of a padded sequence (40_contract R53, R54; 41_base3 R69). -/
theorem val3_chunkAt (n j : Nat) (t : Nat → Trit) :
    val3 (chunkAt 5 ((List.range n).map t) j) =
      padded t n (5 * j) + 3 * padded t n (5 * j + 1) + 9 * padded t n (5 * j + 2) +
        27 * padded t n (5 * j + 3) + 81 * padded t n (5 * j + 4) := by
  simp only [val3, chunkAt_val, Nat.add_zero]

/-- Settles O21: ENC.c of the codec `base3`, whose chunk encoding is the chunk's base-3 value, below 243. -/
theorem encB3WritesPositionalBytes : Obligations.EncB3WritesPositionalBytes := by
  intro s d cap src n t hT hB hcap hsrc
  obtain ⟨B', count, hexec, hlow, hhigh, hframe, hbytes⟩ :=
    encodeSlice_writes base3 (show 0 < 5 by omega) hT hB hcap hsrc
  refine ⟨B', count, hexec, hlow, hhigh, hframe, fun j hj => ?_⟩
  have hvalue := base3Encode_toNat (chunkAt 5 ((List.range n).map t) j)
  exact ⟨_, hbytes j hj, hvalue.trans_le (Nat.le_of_lt_succ (val3_lt _)), hvalue.trans (val3_chunkAt n j t)⟩

/-- Digit `i` of the digit list is the number's base-3 digit there (41_base3 R72). -/
theorem digits3_getElem? {n i : Nat} (hi : i < n) (v : Nat) : (digits3 n v)[i]? = some (tritOf (v / 3 ^ i % 3)) := by
  induction n generalizing i v with
  | zero => omega
  | succ n ih =>
    cases i with
    | zero => simp [digits3]
    | succ i => rw [digits3, List.getElem?_cons_succ, ih (by omega), Nat.div_div_eq_div_mul, ← pow_succ']

/-- Settles O26: DEC.c of the codec `base3`, whose chunk decoding lists the byte's base-3 digits. -/
theorem decB3WritesBaseThreeDigits : Obligations.DecB3WritesBaseThreeDigits := by
  intro s d k src m b hT hB hcap hsrc hvalid
  obtain ⟨T', hexec, hframe, htrits⟩ := decodeSlice_writes base3_lawful (show 0 < 5 by omega) hT hB hcap hsrc
    fun j hj => decide_eq_true (hvalid j hj)
  refine ⟨T', hexec, hframe, fun i hi => ⟨tritOf ((b (i / 5)).toNat / 3 ^ (i % 5) % 3), ?_, ?_⟩⟩
  · rw [htrits i hi]
    exact digits3_getElem? (Nat.mod_lt _ (by omega)) _
  · exact Nat.mod_eq_of_lt (Nat.mod_lt _ (by omega))

end Sys2Proof.Machine
end

section
/-! SUPPORT. ENC.B243 and DEC.B243: the rescaled base-3 value of a chunk, the rescaled digits of a byte, and the bytes the encoder never
produces (42_base243prediv R77 to R81). -/

namespace Sys2Proof.Machine

/-! ## Encoding and decoding -/

/-- Settles O22: ENC.c of the codec `base243`, whose chunk encoding rescales the chunk's base-3 value. -/
theorem encB243WritesRescaledBytes : Obligations.EncB243WritesRescaledBytes := by
  intro s d cap src n t hT hB hcap hsrc
  obtain ⟨B', count, hexec, hlow, hhigh, hframe, hbytes⟩ :=
    encodeSlice_writes base243 (show 0 < 5 by omega) hT hB hcap hsrc
  exact ⟨B', count, hexec, hlow, hhigh, hframe, fun j hj =>
    ⟨_, _, hbytes j hj, base243Encode_toNat _, val3_chunkAt n j t⟩⟩

theorem tritOf_mod_three_val (n : Nat) : (tritOf (n % 3)).val = n % 3 := Nat.mod_mod n 3

/-- Settles O27: DEC.c of the codec `base243`, whose chunk decoding lists the digits of the rescaled byte and refuses no byte. -/
theorem decB243WritesRescaledDigits : Obligations.DecB243WritesRescaledDigits := by
  intro s d k src m b hT hB hcap hsrc
  obtain ⟨T', hexec, hframe, htrits⟩ := decodeSlice_writes base243_lawful (show 0 < 5 by omega) hT hB hcap hsrc
    fun _ _ => rfl
  refine ⟨T', hexec, hframe, fun i hi => ⟨_, ?_, tritOf_mod_three_val _⟩⟩
  calc cellRead T' (d + i) = (base243Decode (b (i / 5)))[i % 5]? := htrits i hi
    _ = (digits3 5 (243 * (b (i / 5)).toNat / 256))[i % 5]? := by rw [base243Decode_eq_digits3]
    _ = _ := digits3_getElem? (Nat.mod_lt _ (by omega)) _

/-! ## No byte is refused -/

@[simp] theorem completionOf_raiseIllegal (c : IllegalCause) (s : State) :
    completionOf (raiseIllegal c s) = some ⟨⟨.illegal, 0⟩, some (.illegal c)⟩ := by
  simp [completionOf, raiseIllegal]

/-- Where every byte is a codepoint, DEC.c does not end with INVALID_CODEPOINT (40_contract R60, 60_exceptions R119). -/
theorem decodeSlice_cause_ne_invalidCodepoint {c : Codec} (hvalid : ∀ y, c.valid y = true) (d k src m : Nat) (s : State) :
    (completionOf (decodeSlice c d k src m s)).map (·.cause) ≠ some (some (.fail .invalidCodepoint)) := by
  obtain ⟨-, h⟩ | ⟨-, -, h⟩ | ⟨-, -, _, -, -, -, h⟩ | ⟨-, -, _, -, -, hinvalid, -⟩ | ⟨-, -, _, -, -, -, h⟩ :=
    decodeSlice_cases c d k src m s
  · simp [h]
  · simp [h]
  · simp [h]
  · simp [hvalid] at hinvalid
  · simp [h]

/-- Settles O32: every byte is a codepoint of `base243`. -/
theorem decB243HasNoInvalidCodepoint : Obligations.DecB243HasNoInvalidCodepoint := by
  intro d k src m s t c hexec htrace hcause
  have hrun : decodeSlice base243 d k src m s = .next t := (exec_dec .b243 d k src m s).symm.trans hexec
  have hend : completionOf (decodeSlice base243 d k src m s) = some c := by simp [hrun, completionOf, htrace]
  exact decodeSlice_cause_ne_invalidCodepoint (c := base243) (fun _ => rfl) d k src m s (by simp [hend, hcause])

/-! ## The bytes the encoder never produces -/

theorem val3_chunkOfVal {v : Nat} (hv : v < 243) : val3 (chunkOfVal v) = v := by
  simp only [val3, chunkOfVal, tritOf_mod_three_val]
  omega

theorem base243Encode_chunkOfVal_toNat {v : Nat} (hv : v < 243) :
    (base243Encode (chunkOfVal v)).toNat = (v * 256 + 242) / 243 := by
  rw [base243Encode_toNat, val3_chunkOfVal hv]

/-- The value a byte decodes to (42_base243prediv R81). -/
theorem val3_base243Decode (y : Byte) : val3 (fun i => (base243Decode y).getD i 0) = 243 * y.toNat / 256 := by
  have hv : 243 * y.toNat / 256 < 243 := by omega
  have hdigit {i : Nat} (hi : i < 5) : (base243Decode y)[i]?.getD 0 = chunkOfVal (243 * y.toNat / 256) i := by
    rw [base243Decode_eq_digits3, digits3_getElem? hi]
    rfl
  simpa [val3, hdigit] using val3_chunkOfVal hv

/-- Encoding the value a byte decodes to gives the byte back, or the byte below it: the rescaling loses the remainder of
`243 * y` by 256, and a remainder of 243 or more is too much to round back up (42_base243prediv R77, R81). -/
theorem base243Encode_decoded_toNat (y : Byte) :
    (base243Encode (chunkOfVal (243 * y.toNat / 256))).toNat + (if 243 ≤ 243 * y.toNat % 256 then 1 else 0) = y.toNat := by
  rw [base243Encode_chunkOfVal_toNat (by omega)]
  split_ifs <;> omega

/-- The encoder never produces a byte exactly when that remainder is too large: a byte it produces is the encoding of the value the byte
decodes to. -/
theorem base243_neverProduced_iff (y : Byte) :
    (∀ v < 243, base243Encode (chunkOfVal v) ≠ y) ↔ 243 ≤ 243 * y.toNat % 256 := by
  constructor
  · intro hmissing
    by_contra hsmall
    have hdecoded := base243Encode_decoded_toNat y
    rw [if_neg hsmall] at hdecoded
    exact hmissing _ (by omega) (BitVec.eq_of_toNat_eq hdecoded)
  · rintro hlarge v hv rfl
    rw [base243Encode_chunkOfVal_toNat hv] at hlarge
    have hback : 243 * ((v * 256 + 242) / 243) / 256 = v := by omega
    omega

/-- 243 is odd, so each of the thirteen remainders from 243 to 255 is that of one byte (42_base243prediv R78). -/
theorem base243_largeRemainder_iff : ∀ y : Byte, 243 ≤ 243 * y.toNat % 256 ↔
    y ∈ [0x01#8, 0x14#8, 0x28#8, 0x3C#8, 0x4F#8, 0x63#8, 0x77#8, 0x8A#8, 0x9E#8, 0xB2#8, 0xC5#8, 0xD9#8, 0xED#8] := by
  decide

/-- Settles O44, by the remainder of `243 * y` by 256. -/
theorem base243ImageLacksThirteenBytes : Obligations.Base243ImageLacksThirteenBytes := by
  refine ⟨fun v hv => ?increasing, fun y => ?image, fun y hmissing => ?decoded⟩
  case increasing =>
    rw [base243Encode_chunkOfVal_toNat (by omega), base243Encode_chunkOfVal_toNat (by omega)]
    omega
  case image => exact (base243_neverProduced_iff y).trans (base243_largeRemainder_iff y)
  case decoded =>
    have hdecoded := base243Encode_decoded_toNat y
    rwa [if_pos ((base243_neverProduced_iff y).mp hmissing), ← val3_base243Decode] at hdecoded

end Sys2Proof.Machine
end

section
/-! SUPPORT. ENC.BCT and DEC.BCT: the 2-bit fields of an encoded chunk, and the trits a byte's fields give (43_bct R86 to R89). -/

namespace Sys2Proof.Machine

/-- The byte of a chunk has the fields 0, 1 and 2 only, so it is at most 0b10101010 (43_bct R87). -/
theorem bctEncode_toNat_le (x : Chunk) : (bctEncode x).toNat ≤ 0xAA := by
  rw [bctEncode_toNat]
  omega

/-- Settles O23: ENC.c of the codec `bct`, whose chunk encoding is the chunk's base-4 value. -/
theorem encBctWritesTwoBitFields : Obligations.EncBctWritesTwoBitFields := by
  intro s d cap src n t hT hB hcap hsrc
  obtain ⟨B', count, hexec, hlow, hhigh, hframe, hbytes⟩ :=
    encodeSlice_writes bct (show 0 < 4 by omega) hT hB hcap hsrc
  refine ⟨B', count, hexec, hlow, hhigh, hframe, fun j hj => ?_⟩
  have hfields := bctEncode_toNat (chunkAt 4 ((List.range n).map t) j)
  simp only [chunkAt_val, Nat.add_zero] at hfields
  exact ⟨_, hbytes j hj, bctEncode_toNat_le _, hfields⟩

/-- A byte is a codepoint exactly when none of its base-4 digits is 3 (43_bct R88). -/
theorem bctValid_iff (y : Byte) : bctValid y = true ↔ ∀ f < 4, y.toNat / 4 ^ f % 4 ≠ 3 := by
  simp [bctValid, bctField_eq]

/-- Trit `i` of a decoded byte is its field `i` (43_bct R89). -/
theorem bctDecode_getElem? {i : Nat} (hi : i < 4) (y : Byte) : (bctDecode y)[i]? = some (tritOf (y.toNat / 4 ^ i % 4)) := by
  simp [bctDecode, bctField_eq, hi]

/-- A field other than 3 is the value of the trit it decodes to (43_bct R88, R89). -/
theorem tritOf_mod_four_val {q : Nat} (hq : q % 4 ≠ 3) : (tritOf (q % 4)).val = q % 4 :=
  Nat.mod_eq_of_lt (by omega)

/-- Settles O28: DEC.c of the codec `bct`, whose chunk decoding lists the byte's fields, each below 3 in a codepoint. -/
theorem decBctWritesFields : Obligations.DecBctWritesFields := by
  intro s d k src m b hT hB hcap hsrc hvalid
  obtain ⟨T', hexec, hframe, htrits⟩ := decodeSlice_writes bct_lawful (show 0 < 4 by omega) hT hB hcap hsrc
    fun j hj => (bctValid_iff (b j)).mpr (hvalid j hj)
  refine ⟨T', hexec, hframe, fun i hi => ?_⟩
  have hfield : i % 4 < 4 := Nat.mod_lt _ (by omega)
  have hread : i / 4 < bytesRead s.cfg .bct k m :=
    (div_lt_ceilDiv (by omega) hi).trans_le (ceilDiv_le_decReadCount (by omega) hcap)
  exact ⟨_, (htrits i hi).trans (bctDecode_getElem? hfield _), tritOf_mod_four_val (hvalid _ hread _ hfield)⟩

end Sys2Proof.Machine
end

section
/-! SUPPORT. The bytes that are codepoints: counted for BCT, and for the default DPT table by their bits (43_bct R88; 44_dpt R104,
R108). -/

namespace Sys2Proof.Machine

/-- Three values for each of four fields: 3^4 codepoints (43_bct R88). -/
theorem bctValid_count : ((List.range 256).filter fun y => bctValid (BitVec.ofNat 8 y)).length = 81 := by decide

/-- The default table holds the bytes of the 243 chunks (44_dpt R106, R107). -/
theorem mem_dptDefaultTable_iff {y : Byte} :
    y ∈ dptDefaultTable ↔ ∃ v < 243, dptDefaultByte (chunkOfVal v) = y := by
  simp [dptDefaultTable]

/-- The bits of every encoded chunk say that it is valid (44_dpt R108). -/
theorem dptDefaultValid_dptDefaultByte : ∀ v < 243, dptDefaultValid (dptDefaultByte (chunkOfVal v)) = true := by
  decide +kernel

/-- A byte valid by its bits is the encoding of the chunk its bits decode to (44_dpt R107, R109). -/
theorem dptDefaultByte_dptDefaultDecode : ∀ y : Byte, dptDefaultValid y = true →
    dptDefaultByte (chunkOfVal (val3 fun i => (dptDefaultDecode y).getD i 0)) = y := by decide

/-- The bits of a byte say that it is invalid exactly in the two gaps of the layouts (44_dpt R104, R108). -/
theorem dptDefaultValid_eq_false_iff : ∀ y : Byte,
    dptDefaultValid y = false ↔ (0xB8 ≤ y.toNat ∧ y.toNat ≤ 0xBF) ∨ 0xFB ≤ y.toNat := by decide

/-- Validity by the bits is membership in the default table (44_dpt R104, R108). -/
theorem dptDefaultValid_iff_mem (y : Byte) : dptDefaultValid y = true ↔ y ∈ dptDefaultTable := by
  rw [mem_dptDefaultTable_iff]
  constructor
  · exact fun hvalid => ⟨_, val3_lt _, dptDefaultByte_dptDefaultDecode y hvalid⟩
  · rintro ⟨v, hv, rfl⟩
    exact dptDefaultValid_dptDefaultByte v hv

/-- Settles O45: BCT by counting, DPT by the bits. -/
theorem invalidBytesAreAsCounted : Obligations.InvalidBytesAreAsCounted := by
  refine ⟨bctValid_count, fun y => ?_, dptDefaultValid_iff_mem⟩
  rw [← dptDefaultValid_iff_mem, Bool.not_eq_true]
  exact dptDefaultValid_eq_false_iff y

end Sys2Proof.Machine
end

section
/-! SUPPORT. ENC.DPT and DEC.DPT: the layout bytes of the default table, and the inverse of a table, by its index and, for the default
table, by the bits (44_dpt R94 to R111). -/

namespace Sys2Proof.Machine

/-! ## Encoding under the default table -/

/-- The chunk of a chunk's base-3 value has the same trits (41_base3 R69, R72). -/
theorem chunkOfVal_val3 (x : Chunk) {i : Nat} (hi : i < 5) : chunkOfVal (val3 x) i = x i := by
  have hdigit := digits3_getElem? hi (val3 x)
  rw [digits3_val3] at hdigit
  simpa [chunkOfVal, hi] using hdigit.symm

/-- A layout byte depends on the five trits of its chunk only (44_dpt R94, R107). -/
theorem dptDefaultByte_chunkOfVal_val3 (x : Chunk) : dptDefaultByte (chunkOfVal (val3 x)) = dptDefaultByte x := by
  simp [dptDefaultByte, pairA, pairB, chunkOfVal_val3]

/-- The default table gives a chunk its layout byte (44_dpt R106, R107). -/
theorem dptEncode_dptDefaultTable (x : Chunk) : dptEncode dptDefaultTable x = dptDefaultByte x := by
  rw [← dptDefaultByte_chunkOfVal_val3]
  simp [dptEncode, tableByte, dptDefaultTable, val3_lt]

/-- The fields of a small/small byte do not overlap (44_dpt R99). -/
theorem smallSmall_toNat : ∀ a < 8, ∀ b < 8, ∀ x4 < 3,
    (BitVec.ofNat 8 (a ||| ((x4 &&& 1) <<< 3) ||| (b <<< 4) ||| ((x4 >>> 1) <<< 7))).toNat =
      a + 8 * (x4 % 2) + 16 * b + 128 * (x4 / 2) := by decide

/-- The fields of a small/large byte do not overlap (44_dpt R101). -/
theorem smallLarge_toNat : ∀ a < 8, ∀ x4 < 3,
    (BitVec.ofNat 8 (0x88 ||| (x4 <<< 4) ||| a)).toNat = 0x88 + 16 * x4 + a := by decide

/-- The fields of a large/small byte do not overlap (44_dpt R102). -/
theorem largeSmall_toNat : ∀ b < 8, ∀ x4 < 3,
    (BitVec.ofNat 8 (0xC8 ||| (x4 <<< 4) ||| b)).toNat = 0xC8 + 16 * x4 + b := by decide

/-- The fields of a large/large byte do not overlap (44_dpt R103). -/
theorem largeLarge_toNat : ∀ x4 < 3, (BitVec.ofNat 8 (0xF8 ||| x4)).toNat = 0xF8 + x4 := by decide

/-- The number a layout byte denotes, by the two pair values: a pair value is at most 8 (44_dpt R94, R107). -/
theorem dptDefaultByte_toNat (x : Chunk) : (dptDefaultByte x).toNat =
    if pairA x ≤ 7 ∧ pairB x ≤ 7 then pairA x + 8 * ((x 4).val % 2) + 16 * pairB x + 128 * ((x 4).val / 2)
    else if pairA x ≤ 7 then 0x88 + 16 * (x 4).val + pairA x
    else if pairB x ≤ 7 then 0xC8 + 16 * (x 4).val + pairB x
    else 0xF8 + (x 4).val := by
  have hA : pairA x ≤ 8 := by unfold pairA; omega
  have hB : pairB x ≤ 8 := by unfold pairB; omega
  have h4 : (x 4).val < 3 := (x 4).isLt
  unfold dptDefaultByte
  by_cases ha : pairA x ≤ 7
  · by_cases hb : pairB x ≤ 7
    · simpa [ha, hb] using smallSmall_toNat _ (by omega) _ (by omega) _ h4
    · have hb8 : pairB x = 8 := by omega
      simpa [ha, hb8] using smallLarge_toNat _ (by omega) _ h4
  · have ha8 : pairA x = 8 := by omega
    by_cases hb : pairB x ≤ 7
    · simpa [ha8, hb] using largeSmall_toNat _ (by omega) _ h4
    · have hb8 : pairB x = 8 := by omega
      simpa [ha8, hb8] using largeLarge_toNat _ h4

/-- Settles O24: ENC.c of the codec `dpt`, whose chunk encoding is the layout byte under the default table. -/
theorem encDptWritesDefaultLayouts : Obligations.EncDptWritesDefaultLayouts := by
  intro s d cap src n t htable hT hB hcap hsrc
  obtain ⟨B', count, hexec, hlow, hhigh, hframe, hbytes⟩ :=
    encodeSlice_writes (dpt s.cfg.dptTable) (show 0 < 5 by omega) hT hB hcap hsrc
  refine ⟨B', count, hexec, hlow, hhigh, hframe, fun j hj => ⟨_, _, _, _, hbytes j hj, rfl, rfl, rfl, ?_⟩⟩
  have hlayout := dptDefaultByte_toNat (chunkAt 5 ((List.range n).map t) j)
  simp only [pairA, pairB, chunkAt_val, Nat.add_zero] at hlayout
  simp only [dpt, htable, dptEncode_dptDefaultTable, hlayout]

/-! ## Decoding under any table -/

/-- The byte of every requested trit is among the bytes DEC.c reads (40_contract R53, R60). -/
theorem div_chunkSizeOf_lt_bytesRead (cfg : Config) (c : CodecName) {k m i : Nat} (hcap : k ≤ chunkSizeOf c * m) (hi : i < k) :
    i / chunkSizeOf c < bytesRead cfg c k m :=
  (div_lt_ceilDiv (chunkSizeOf_pos c) hi).trans_le (ceilDiv_le_decReadCount (chunkSizeOf_pos c) hcap)

/-- A legal table repeats no byte, so the table's byte for `v` is at index `v` only (44_dpt R111). -/
theorem idxOf_tableByte {table : List Byte} (h : DptTableOk table) {v : Nat} (hv : v < 243) :
    table.idxOf (tableByte table v) = v := by
  have hlen : v < table.length := h.total ▸ hv
  simpa [tableByte, hlen] using h.injective.idxOf_getElem v hlen

/-- The bytes of a legal table are its codepoints (44_dpt R111). -/
theorem dptValid_tableByte {table : List Byte} (h : DptTableOk table) {v : Nat} (hv : v < 243) :
    dptValid table (tableByte table v) = true := by
  have hlen : table.idxOf (tableByte table v) < table.length := by rwa [idxOf_tableByte h hv, h.total]
  exact List.contains_iff_mem.mpr (List.idxOf_lt_length_iff.mp hlen)

/-- Settles O30: DEC.c of the codec `dpt`, whose chunk decoding lists the base-3 digits of the byte's index in the table. -/
theorem decDptInvertsTheTable : Obligations.DecDptInvertsTheTable := by
  intro s d k src m v htable hT hB hcap hv hsrc
  obtain ⟨T', hexec, hframe, htrits⟩ := decodeSlice_writes (dpt_lawful htable) (show 0 < 5 by omega) hT hB hcap hsrc
    fun j hj => dptValid_tableByte htable (hv j hj)
  refine ⟨T', hexec, hframe, fun i hi => ⟨tritOf (v (i / 5) / 3 ^ (i % 5) % 3), ?_, tritOf_mod_three_val _⟩⟩
  have hread : i / 5 < bytesRead s.cfg .dpt k m := div_chunkSizeOf_lt_bytesRead s.cfg .dpt hcap hi
  have hindex := idxOf_tableByte htable (hv _ hread)
  rw [htrits i hi]
  simpa only [dpt, dptDecode, hindex] using digits3_getElem? (Nat.mod_lt i (by omega)) (v (i / 5))

/-! ## Decoding under the default table -/

/-- The chunk the bits of a byte decode to (44_dpt R109). -/
def layoutChunk (y : Byte) : Chunk := fun i => (dptDefaultDecode y).getD i 0

/-- A byte valid by its bits is the default table's byte for the chunk its bits decode to (44_dpt R107, R109). -/
theorem dptEncode_layoutChunk {y : Byte} (hvalid : dptDefaultValid y = true) :
    dptEncode dptDefaultTable (layoutChunk y) = y := by
  rw [dptEncode_dptDefaultTable, ← dptDefaultByte_chunkOfVal_val3]
  exact dptDefaultByte_dptDefaultDecode y hvalid

/-- Inverting the default table gives the trits the bits give (44_dpt R109, R111). -/
theorem dptDecode_dptDefaultTable {y : Byte} (hvalid : dptDefaultValid y = true) :
    dptDecode dptDefaultTable y = dptDefaultDecode y := calc
  dptDecode dptDefaultTable y
  _ = dptDecode dptDefaultTable (dptEncode dptDefaultTable (layoutChunk y)) := by rw [dptEncode_layoutChunk hvalid]
  _ = (List.range 5).map (layoutChunk y) := (dpt_lawful dptDefaultTable_ok).decode_encode _
  _ = dptDefaultDecode y := rfl

/-- Settles O29: DEC.c of the codec `dpt`, whose chunk decoding is the decoding by the bits under the default table. -/
theorem decDptReadsDefaultLayouts : Obligations.DecDptReadsDefaultLayouts := by
  intro s d k src m b htable hT hB hcap hsrc hvalid
  have hlegal : DptTableOk s.cfg.dptTable := htable ▸ dptDefaultTable_ok
  obtain ⟨T', hexec, hframe, htrits⟩ := decodeSlice_writes (dpt_lawful hlegal) (show 0 < 5 by omega) hT hB hcap hsrc
    fun j hj => List.contains_iff_mem.mpr (htable ▸ (dptDefaultValid_iff_mem _).mp (hvalid j hj))
  refine ⟨T', hexec, hframe, fun i hi => ?_⟩
  have hread : i / 5 < bytesRead s.cfg .dpt k m := div_chunkSizeOf_lt_bytesRead s.cfg .dpt hcap hi
  rw [htrits i hi]
  simp only [dpt, htable, dptDecode_dptDefaultTable (hvalid _ hread)]

end Sys2Proof.Machine
end

section
/-! SUPPORT. The model fault mark (60_exceptions R121): which read sets it, and that the first fault stays. -/

namespace Sys2Proof.Machine

variable {s t : State}

/-- Reading a region answers its lowest unwritten cell (60_exceptions R121; log entry 3). -/
theorem regionRead_of_firstUnwritten {α : Type} {m : Space α} {a n j : Nat} (hj : j < n) (hnone : cellRead m (a + j) = none)
    (hbefore : ∀ i < j, cellRead m (a + i) ≠ none) : regionRead m a n = .error (a + j) := by
  obtain ⟨vs, -, rfl, hcells⟩ | ⟨j', -, hread, hnone', hbefore'⟩ := regionRead_cases m n a
  · have hsome : cellRead m (a + j) = some vs[j] := (hcells j hj).trans (List.getElem?_eq_getElem hj)
    simp [hnone] at hsome
  · obtain hlt | rfl | hgt := Nat.lt_trichotomy j j'
    · exact absurd hnone (hbefore' j hlt)
    · exact hread
    · exact absurd hnone' (hbefore j' hgt)

/-- The model fault takes the command and leaves the first fault in the mark. -/
theorem raiseUninit_marks (sp : SpaceName) (a : Nat) (s : State) :
    ∃ t, raiseUninit sp a s = .next t ∧ t.cidx = s.cidx + 1 ∧
      t.faultMark = some (s.faultMark.getD (.uninitRead sp s.cidx a)) :=
  ⟨_, raiseUninit_eq sp a s, rfl, rfl⟩

/-- ENC.c that passes its checks raises the model fault at its first unwritten trit (60_exceptions R122). -/
theorem encodeSlice_of_firstUnwritten (c : Codec) {d cap src n j : Nat} (hT : src + n ≤ s.cfg.tSize)
    (hB : d + cap ≤ s.cfg.bSize) (hcap : ceilDiv n c.chunkN ≤ cap) (hj : j < n) (hnone : cellRead s.T (src + j) = none)
    (hbefore : ∀ i < j, cellRead s.T (src + i) ≠ none) : encodeSlice c d cap src n s = raiseUninit .T (src + j) s := by
  rw [encodeSlice, if_pos ((encInBounds_iff ..).mpr ⟨hT, hB⟩), if_neg (Nat.not_lt.mpr hcap),
    regionRead_of_firstUnwritten hj hnone hbefore]

/-- DEC.c that passes its checks raises the model fault at its first unwritten byte, before it validates any
(60_exceptions R122). -/
theorem decodeSlice_of_firstUnwritten (c : Codec) {d k src m j : Nat} (hT : d + k ≤ s.cfg.tSize)
    (hB : src + m ≤ s.cfg.bSize) (hcap : k ≤ m * c.chunkN) (hj : j < decReadCount s.cfg c.chunkN k m)
    (hnone : cellRead s.B (src + j) = none) (hbefore : ∀ i < j, cellRead s.B (src + i) ≠ none) :
    decodeSlice c d k src m s = raiseUninit .B (src + j) s := by
  rw [decodeSlice, if_pos ((decInBounds_iff ..).mpr ⟨hT, hB⟩), if_neg (Nat.not_lt.mpr hcap),
    regionRead_of_firstUnwritten hj hnone hbefore]

/-- Settles O38: ENC.c reads its trits from the lowest address up, after its BOUNDS and CAPACITY checks. -/
theorem encodeOfUnwrittenTritsSetsTheMark : Obligations.EncodeOfUnwrittenTritsSetsTheMark := by
  intro c d cap src n j s hT hB hcap hj hnone hbefore
  have hroom : ceilDiv n (codecOf s.cfg c).chunkN ≤ cap := by
    rw [codecOf_chunkN]
    exact (ceilDiv_le_iff _ _ _ (chunkSizeOf_pos c)).mpr hcap
  rw [exec_enc, encodeSlice_of_firstUnwritten _ hT hB hroom hj hnone hbefore]
  exact raiseUninit_marks ..

/-- Settles O39: DEC.c reads its bytes from the lowest address up, and validates them only once all are read. -/
theorem decodeOfUnwrittenBytesSetsTheMark : Obligations.DecodeOfUnwrittenBytesSetsTheMark := by
  intro c d k src m j s hT hB hcap hj hnone hbefore
  rw [bytesRead, ← codecOf_chunkN s.cfg c] at hj
  rw [← codecOf_chunkN s.cfg c] at hcap
  rw [exec_dec, decodeSlice_of_firstUnwritten _ hT hB hcap hj hnone hbefore]
  exact raiseUninit_marks ..

/-- A command leaves the mark, or it read an unwritten cell and the mark holds the first fault. -/
theorem CommandEnd.faultMark {i : Instr} {max : Nat} (h : CommandEnd i max s t) :
    t.faultMark = s.faultMark ∨ ∃ sp a, t.faultMark = some (s.faultMark.getD (.uninitRead sp s.cidx a)) := by
  cases h with
  | responds hchange =>
    obtain ⟨-, -, -, -, hmark⟩ := hchange.keeps
    exact .inl hmark
  | uninit => exact .inr ⟨_, _, rfl⟩

/-- The same of a step: an illegal OP leaves the mark (30_encoding R49). -/
theorem step_faultMark (hstep : step s = .next t) :
    t.faultMark = s.faultMark ∨ ∃ sp a, t.faultMark = some (s.faultMark.getD (.uninitRead sp s.cidx a)) := by
  obtain ⟨w, -, ⟨i, -, hexec⟩ | ⟨op, -, rfl⟩⟩ := step_next_cases hstep
  · obtain ⟨max, hend, -⟩ := commandEnd_of_exec hexec
    exact hend.faultMark
  · exact .inl rfl

/-- Settles O40: the mark after a step is the one before it, or the first of that one and this command's own fault. -/
theorem theFirstFaultStays : Obligations.TheFirstFaultStays := by
  intro s t hstep
  obtain hkept | ⟨sp, a, hfault⟩ := step_faultMark hstep
  · exact ⟨fun f hf => hkept.trans hf, fun hnone => .inl (hkept.trans hnone)⟩
  · exact ⟨fun f hf => by simpa [hf] using hfault, fun hnone => .inr ⟨sp, a, by simpa [hnone] using hfault⟩⟩

end Sys2Proof.Machine
end

section
/-! SUPPORT. A reset during a command, as one of the changes a FAIL may make (70_reset_and_hazards R134). -/

namespace Sys2Proof.Machine

/-- A reset during a command makes a change that the command could make before a FAIL (40_contract R61). -/
theorem resetDuring_change (i : Instr) (s : State) :
    ∃ change, DestinationChange (destinationT i) (destinationB i) ⟨.fail, 0⟩ change ∧ resetDuring i s = change s := by
  obtain h | h | h := resetDuring_cases i s
  · exact ⟨_, .unchanged, h⟩
  · exact ⟨_, .clobberB rfl, h⟩
  · exact ⟨_, .clobberT rfl, h⟩

/-- Settles O48: the change is one made before a FAIL, so it keeps the record and the mark and stays inside the destination. -/
theorem resetDuringACommandStaysInItsDestination : Obligations.ResetDuringACommandStaysInItsDestination := by
  intro i s
  obtain ⟨change, hchange, hreset⟩ := resetDuring_change i s
  rw [hreset]
  obtain ⟨hcfg, -, htrace, hmark⟩ := hchange.keeps s
  obtain ⟨hframeT, hframeB⟩ := hchange.sameOutside s
  obtain ⟨hdrawnT, hdrawnB⟩ := hchange.drawnInside s
  exact ⟨htrace, hmark, hcfg, hframeT, hframeB, hdrawnT, hdrawnB⟩

end Sys2Proof.Machine
end

section
/-! SUPPORT. The end of the stream: which states have no command left, and what a step answers there (10_state R21). -/

namespace Sys2Proof.Machine

/-- The host has no descriptor to present exactly when the index is at or past the end of the stream (10_state R21, R27). -/
theorem nextDescriptor_eq_none_iff {s : State} : nextDescriptor s = none ↔ s.stream.length ≤ s.cidx :=
  List.getElem?_eq_none_iff

/-- Settles O9: at the end of the stream there is no next descriptor, which is the one case the step refuses with `endOfStream`. -/
theorem noCommandLeftIsRefused : Obligations.NoCommandLeftIsRefused := by
  intro s hend
  have hnone : nextDescriptor s = none := nextDescriptor_eq_none_iff.mpr hend
  simp only [step, hnone]

end Sys2Proof.Machine
end
